-- ==== Sys2Proof/Word.lean ====
section
/-! DEFINITION. The two value types of AES-CORE: a byte is 8 bits, a word is 32 bits, every value unsigned (R10). -/

namespace Sys2Proof

/-- A byte, bit 7 most significant (R10). -/
abbrev Byte := BitVec 8

/-- A word, bit 31 most significant; the width of every register and of the bus (R8, R10). -/
abbrev Word := BitVec 32

end Sys2Proof
end

