-- ==== Sys2Proof/Syntax.lean ====
section
/-! DEFINITION. The 18 commands of the opcode map R94, one constructor per row of spec/opcode_table.json. -/

namespace Sys2Proof

/-- A command of AES-CORE (R94). Only ADD_ROUND_KEY has an operand in its word, the round index RND (R92); the other
operands are registers that the opcode names. -/
inductive Instr where
  | nop
  | keyExpand
  | encrypt
  | decrypt
  | zeroize
  | clearKey
  | subBytes
  | invSubBytes
  | shiftRows
  | invShiftRows
  | mixColumns
  | invMixColumns
  | addRoundKey (rnd : Nat)
  | gfMul
  | sbox
  | invSbox
  | subWord
  | rotWord
  deriving DecidableEq, Repr

end Sys2Proof
end

