-- ==== Sys2Proof/WellFormed.lean ====
section
/-! DEFINITION. Which terms of `Instr` are commands: the round index must fit RND (R92, R99). -/

namespace Sys2Proof

/-- RND holds 0..15; an assembler refuses an ADD_ROUND_KEY operand above 15 (R92, R99). The other commands have no
operand that could be ill formed. -/
def Instr.wellFormed : Instr → Bool
  | .addRoundKey rnd => decide (rnd ≤ 15)
  | .nop | .keyExpand | .encrypt | .decrypt | .zeroize | .clearKey => true
  | .subBytes | .invSubBytes | .shiftRows | .invShiftRows | .mixColumns | .invMixColumns => true
  | .gfMul | .sbox | .invSbox | .subWord | .rotWord => true

end Sys2Proof
end

