-- ==== Sys2Proof/Decode.lean ====
section
/-! DEFINITION. The decoder of R98, total on every 32-bit command word, and the encoder of R90, each written from the
opcode map R94. -/

namespace Sys2Proof

/-- Why `decode` answers ILLEGAL (R93, R95, R98). All three are reported as ILLEGAL_CMD. -/
inductive DecodeError where
  /-- `c[31:12] ≠ 0` (R93). -/
  | reservedBits
  /-- OPCODE is not in the map R94 (R95). -/
  | reservedOpcode
  /-- `c[11:8] ≠ 0` with an OPCODE other than 0x16 (R93). -/
  | rndNotZero
  deriving DecidableEq, Repr

/-- OPCODE, `c[7:0]` (R90, R91). -/
def opcodeField (c : Word) : BitVec 8 := c.extractLsb' 0 8

/-- RND, `c[11:8]` (R90, R92). -/
def rndField (c : Word) : BitVec 4 := c.extractLsb' 8 4

/-- The reserved bits `c[31:12]` (R90, R93). -/
def reservedField (c : Word) : BitVec 20 := c.extractLsb' 12 20

/-- The command an OPCODE names, with the round index RND for ADD_ROUND_KEY (R94); `none` for a reserved OPCODE
(R95). -/
def commandOf (op : BitVec 8) (rnd : BitVec 4) : Option Instr :=
  match op with
  | 0x00#8 => some .nop
  | 0x01#8 => some .keyExpand
  | 0x02#8 => some .encrypt
  | 0x03#8 => some .decrypt
  | 0x04#8 => some .zeroize
  | 0x05#8 => some .clearKey
  | 0x10#8 => some .subBytes
  | 0x11#8 => some .invSubBytes
  | 0x12#8 => some .shiftRows
  | 0x13#8 => some .invShiftRows
  | 0x14#8 => some .mixColumns
  | 0x15#8 => some .invMixColumns
  | 0x16#8 => some (.addRoundKey rnd.toNat)
  | 0x20#8 => some .gfMul
  | 0x21#8 => some .sbox
  | 0x22#8 => some .invSbox
  | 0x23#8 => some .subWord
  | 0x24#8 => some .rotWord
  | _ => none

/-- `decode(c)` of R98, in its order of checks. -/
def decode (c : Word) : Except DecodeError Instr :=
  if reservedField c ≠ 0 then .error .reservedBits
  else
    match commandOf (opcodeField c) (rndField c) with
    | none => .error .reservedOpcode
    | some i => if opcodeField c ≠ 0x16 ∧ rndField c ≠ 0 then .error .rndNotZero else .ok i

/-- The OPCODE of a command (R94). -/
def Instr.opcode : Instr → BitVec 8
  | .nop => 0x00
  | .keyExpand => 0x01
  | .encrypt => 0x02
  | .decrypt => 0x03
  | .zeroize => 0x04
  | .clearKey => 0x05
  | .subBytes => 0x10
  | .invSubBytes => 0x11
  | .shiftRows => 0x12
  | .invShiftRows => 0x13
  | .mixColumns => 0x14
  | .invMixColumns => 0x15
  | .addRoundKey _ => 0x16
  | .gfMul => 0x20
  | .sbox => 0x21
  | .invSbox => 0x22
  | .subWord => 0x23
  | .rotWord => 0x24

/-- The RND field of a command's word: the round index of ADD_ROUND_KEY, 0 for every other command (R90). -/
def Instr.rndBits : Instr → BitVec 4
  | .addRoundKey rnd => BitVec.ofNat 4 rnd
  | .nop | .keyExpand | .encrypt | .decrypt | .zeroize | .clearKey => 0
  | .subBytes | .invSubBytes | .shiftRows | .invShiftRows | .mixColumns | .invMixColumns => 0
  | .gfMul | .sbox | .invSbox | .subWord | .rotWord => 0

/-- Format C (R90): OPCODE in [7:0], RND in [11:8], zeros above. -/
def encode (i : Instr) : Word :=
  (i.opcode.setWidth 32) ||| (i.rndBits.setWidth 32 <<< 8)

/-- A row of the opcode map R94: a command word c selects it when `c & mask = match`. -/
structure OpcodeRow where
  mnemonic : String
  matchWord : Word
  maskWord : Word
  deriving DecidableEq, Repr

/-- The row's test (R94). -/
def OpcodeRow.selects (r : OpcodeRow) (c : Word) : Bool := (c &&& r.maskWord) == r.matchWord

/-- The row of the opcode map that stands for a command (R94). -/
def Instr.row : Instr → OpcodeRow
  | .nop => ⟨"NOP", 0x00000000, 0xFFFFFFFF⟩
  | .keyExpand => ⟨"KEY_EXPAND", 0x00000001, 0xFFFFFFFF⟩
  | .encrypt => ⟨"ENCRYPT", 0x00000002, 0xFFFFFFFF⟩
  | .decrypt => ⟨"DECRYPT", 0x00000003, 0xFFFFFFFF⟩
  | .zeroize => ⟨"ZEROIZE", 0x00000004, 0xFFFFFFFF⟩
  | .clearKey => ⟨"CLEAR_KEY", 0x00000005, 0xFFFFFFFF⟩
  | .subBytes => ⟨"SUB_BYTES", 0x00000010, 0xFFFFFFFF⟩
  | .invSubBytes => ⟨"INV_SUB_BYTES", 0x00000011, 0xFFFFFFFF⟩
  | .shiftRows => ⟨"SHIFT_ROWS", 0x00000012, 0xFFFFFFFF⟩
  | .invShiftRows => ⟨"INV_SHIFT_ROWS", 0x00000013, 0xFFFFFFFF⟩
  | .mixColumns => ⟨"MIX_COLUMNS", 0x00000014, 0xFFFFFFFF⟩
  | .invMixColumns => ⟨"INV_MIX_COLUMNS", 0x00000015, 0xFFFFFFFF⟩
  | .addRoundKey _ => ⟨"ADD_ROUND_KEY", 0x00000016, 0xFFFFF0FF⟩
  | .gfMul => ⟨"GF_MUL", 0x00000020, 0xFFFFFFFF⟩
  | .sbox => ⟨"SBOX", 0x00000021, 0xFFFFFFFF⟩
  | .invSbox => ⟨"INV_SBOX", 0x00000022, 0xFFFFFFFF⟩
  | .subWord => ⟨"SUB_WORD", 0x00000023, 0xFFFFFFFF⟩
  | .rotWord => ⟨"ROT_WORD", 0x00000024, 0xFFFFFFFF⟩

/-- The command word that `w` stands for: one 32-bit bus write value, its bits above `nbits` zero (R90, R97). -/
def tableWord (nbits w : Nat) : Word := BitVec.ofNat 32 (w % 2 ^ nbits)

/-- The instruction the decoder reads from a row's word, `none` where it is ILLEGAL. -/
def decodeTableWord (nbits w : Nat) : Option Instr := (decode (tableWord nbits w)).toOption

end Sys2Proof
end

