-- ==== Sys2Proof/Config.lean ====
section
/-! DEFINITION. What the spec leaves open: the free values and the open parameters of R9. None has a body, so no
proof can see a value of one. -/

namespace Sys2Proof.Config

/-- `draw()` (R13, R67): the `n`-th value a read of STATE, RESULT or RKEY returns while BUSY = 1. Free (log 4). -/
opaque draw : Nat → Word

/-- RCON at an index the table of R116 does not list (index 0 included, R117). Free, and never read on a reachable
path (log 10). -/
opaque rconUnlisted : Nat → Byte

/-- A schedule word at an index beyond 59, which no rule reads (R80). Free (log 10). -/
opaque beyondSchedule : Nat → Word

/-- `BASE`, the platform address of the 4 KiB register window (R9); the engine sees only the offset (log 12). -/
opaque base : Nat

/-- `LAT_STEP` less one: the parameter is at least 1 (R9, log 12). -/
opaque latStepLessOne : Nat

/-- `LAT_STEP`, the clock cycles of one engine step (R9). -/
def latStep : Nat := latStepLessOne + 1

/-- The clock cycles of `n` engine steps (R280); no rule of the machine reads it. -/
def cycles (n : Nat) : Nat := n * latStep

/-- The byte offset the engine sees of a platform address, where the address lies in the window (R9, R60). -/
def windowOffset (address : Nat) : Option (BitVec 12) :=
  if base ≤ address ∧ address < base + 0x1000 then some (BitVec.ofNat 12 (address - base)) else none

end Sys2Proof.Config
end

