-- ==== Sys2Proof/Machine/State.lean ====
section
/-! DEFINITION. The state of AES-CORE as plain data (R20), its value after reset (R47), the agents' inputs and outputs,
and the reasons a step can stop. -/

namespace Sys2Proof.Machine

/-- One column of the state matrix: rows 0 to 3 (R35). -/
structure Column where
  r0 : Byte
  r1 : Byte
  r2 : Byte
  r3 : Byte
  deriving DecidableEq, Repr

/-- The state matrix S, a 16-byte block held column by column (R11, R35). -/
structure Block where
  c0 : Column
  c1 : Column
  c2 : Column
  c3 : Column
  deriving DecidableEq, Repr

/-- FSM (R42). -/
inductive Fsm where
  | idle
  | prim
  | kexp
  | enc
  | dec
  deriving DecidableEq, Repr

/-- STATUS.ERRCODE: the codes of R230 that are ever produced; 8 to 15 are not (R32). -/
inductive ErrCode where
  | none
  | illegalCmd
  | unsupportedVariant
  | invalidKeyLength
  | noSchedule
  | roundRange
  | operandRange
  | busy
  deriving DecidableEq, Repr

/-- The three key sizes (R2); the fourth value of a 2-bit key-size field is no variant (R22). -/
inductive Variant where
  | aes128
  | aes192
  | aes256
  deriving DecidableEq, Repr

/-- The registers of the address map R63. -/
inductive Reg where
  | ctrl
  | status
  | cmd
  | id
  | state (c : Fin 4)
  | key (k : Fin 8)
  | opa
  | opb
  | result
  | rkey (i : Fin 60)
  deriving DecidableEq, Repr

/-- One input to the machine, in the total order of R7: a host access with its byte offset and size (R60), a turn of
the ENGINE, or the hardware reset (log 1). -/
inductive Event where
  | read (off : BitVec 12) (size : Nat)
  | write (off : BitVec 12) (size : Nat) (v : Word)
  | engine
  | reset
  deriving DecidableEq, Repr

/-- What the bus returns for an access: OKAY(data), OKAY or BUSERR (R60). -/
inductive Response where
  | data (w : Word)
  | okay
  | busErr
  deriving DecidableEq, Repr

/-- Why a step stops. Both reasons are safe: they arise only in states that R48 and the rules behind it rule out, and
no rule of the spec gives such a state a successor (log 8). -/
inductive Fault where
  /-- Raised by an engine turn in a state no row of the transition table R188 covers ("No other transition exists"):
  a command whose class is not FSM, a latched word that does not decode, CTR or the key size out of range. Safe. -/
  | noEngineRule
  /-- Raised by ADD_ROUND_KEY's check when SCHED_VALID = 1 and SCHED_KSIZE = 3: `nr(3)` is never evaluated (R22, R30).
  Safe. -/
  | scheduleSizeThree
  deriving DecidableEq, Repr

/-- Why the model gives an instruction no meaning. -/
inductive Refusal where
  /-- Raised by `exec` for an instruction without a meaning; no arm raises it. Safe. -/
  | notModelled (mnemonic : String)
  deriving DecidableEq, Repr

/-- What a command's own check at its CMD write decides (R233). -/
inductive Verdict where
  | pass
  | refuse (code : ErrCode)
  | stuck (reason : Fault)
  deriving DecidableEq, Repr

/-- The architectural state of R20, and the three fields of the model's own at the end. -/
structure State where
  /-- CTRL.KSIZE (R22). -/
  ksize : BitVec 2
  /-- CTRL.IRQ_EN (R23). -/
  irqEn : Bool
  /-- STATUS.BUSY (R27). -/
  busy : Bool
  /-- STATUS.DONE (R28). -/
  done : Bool
  /-- STATUS.ERR (R29). -/
  err : Bool
  /-- STATUS.ERR_OVF (R29). -/
  errOvf : Bool
  /-- STATUS.ERRCODE (R29, R230). -/
  errCode : ErrCode
  /-- STATUS.SCHED_VALID (R30). -/
  schedValid : Bool
  /-- STATUS.SCHED_KSIZE (R30). -/
  schedKsize : BitVec 2
  /-- STATUS.KEY_WR (R31). -/
  keyWr : BitVec 8
  /-- S, visible as STATE0..3 (R35). -/
  block : Block
  /-- K[0..7], written through KEY0..7 (R36). -/
  key : Vector Word 8
  /-- OPA (R37). -/
  opa : Word
  /-- OPB (R37). -/
  opb : Word
  /-- RESULT (R38). -/
  result : Word
  /-- The schedule RAM W[0..59], read through RKEY0..59 (R39). -/
  sched : Vector Word 60
  /-- FSM (R42). -/
  fsm : Fsm
  /-- CUR_OP (R43). -/
  curOp : BitVec 8
  /-- CUR_RND (R43). -/
  curRnd : BitVec 4
  /-- CTR (R44). -/
  ctr : BitVec 6
  /-- X_KSIZE (R45). -/
  xKsize : BitVec 2
  /-- The model's own: the inputs still to come, first one first (log 1). -/
  events : List Event
  /-- The model's own: the responses the bus has returned, newest first (log 6). -/
  responses : List Response
  /-- The model's own: how many `draw()` values have been used (log 4). -/
  draws : Nat
  deriving DecidableEq, Repr

/-- The state after reset (R47, R272). The last three fields are DESIGN CHOICES (log 1, log 4, log 6). -/
def State.reset : State where
  ksize := 0
  irqEn := false
  busy := false
  done := false
  err := false
  errOvf := false
  errCode := .none
  schedValid := false
  schedKsize := 0
  keyWr := 0
  block := ⟨⟨0, 0, 0, 0⟩, ⟨0, 0, 0, 0⟩, ⟨0, 0, 0, 0⟩, ⟨0, 0, 0, 0⟩⟩
  key := Vector.replicate 8 0
  opa := 0
  opb := 0
  result := 0
  sched := Vector.replicate 60 0
  fsm := .idle
  curOp := 0
  curRnd := 0
  ctr := 0
  xKsize := 0
  events := []
  responses := []
  draws := 0

end Sys2Proof.Machine
end

