-- ==== Sys2Proof/Machine/Operands.lean ====
section
/-! DEFINITION. The operand forms: bytes of a word (R12), bytes of the state matrix (R11), words of the schedule RAM
(R39, R80), the key-size functions (R22) and the address map (R63). -/

namespace Sys2Proof.Machine

/-- `byte(w, j) = w[31-8j : 24-8j]`: byte 0 is the most significant (R12). -/
def byteOf (w : Word) (j : Fin 4) : Byte := w.extractLsb' (24 - 8 * j.val) 8

/-- `word(b0, b1, b2, b3) = b0 || b1 || b2 || b3` (R12). -/
def wordOf (b0 b1 b2 b3 : Byte) : Word := b0 ++ b1 ++ b2 ++ b3

/-- `rotl32(v, n)` (R10). -/
def rotl32 (v : Word) (n : Nat) : Word := (v <<< n) ||| (v >>> (32 - n))

/-- `zext_32` of a byte (R10). -/
def zextByte (b : Byte) : Word := b.setWidth 32

/-- The byte of a column at row `r`. -/
def Column.get (a : Column) (r : Fin 4) : Byte :=
  match r with
  | 0 => a.r0
  | 1 => a.r1
  | 2 => a.r2
  | 3 => a.r3

/-- The column whose byte at row `r` is `f r`. -/
def Column.ofFn (f : Fin 4 → Byte) : Column := ⟨f 0, f 1, f 2, f 3⟩

/-- Column `c` of the state matrix. -/
def Block.column (b : Block) (c : Fin 4) : Column :=
  match c with
  | 0 => b.c0
  | 1 => b.c1
  | 2 => b.c2
  | 3 => b.c3

/-- `S[r][c]` (R11). -/
def Block.get (b : Block) (r c : Fin 4) : Byte := (b.column c).get r

/-- The state matrix whose byte at row `r` and column `c` is `f r c`. -/
def Block.ofFn (f : Fin 4 → Fin 4 → Byte) : Block :=
  ⟨Column.ofFn fun r => f r 0, Column.ofFn fun r => f r 1, Column.ofFn fun r => f r 2, Column.ofFn fun r => f r 3⟩

/-- The all-zero block. -/
def Block.zero : Block := Block.ofFn fun _ _ => 0

/-- What STATEc reads: `word(S[0][c], S[1][c], S[2][c], S[3][c])` (R35). -/
def Block.stateWord (b : Block) (c : Fin 4) : Word := wordOf (b.get 0 c) (b.get 1 c) (b.get 2 c) (b.get 3 c)

/-- A write of v to STATEc: `S[r][c] <- byte(v, r)` for r = 0..3 (R35). -/
def Block.setStateWord (b : Block) (c : Fin 4) (v : Word) : Block :=
  Block.ofFn fun r c' => if c' = c then byteOf v r else b.get r c'

/-- `W[i]`. No rule reads an index beyond 59 (R80); there the value is free (log 10). -/
def schedWord (w : Vector Word 60) (i : Nat) : Word :=
  if h : i < 60 then w[i] else Config.beyondSchedule i

/-- `K[i]` for the first `Nk ≤ 8` indices; beyond the register file the value is the schedule's free one, never read. -/
def keyWord (k : Vector Word 8) (i : Nat) : Word :=
  if h : i < 8 then k[i] else Config.beyondSchedule i

/-- The variant a 2-bit key-size field selects; 3 is unsupported (R22). -/
def variantOf (ks : BitVec 2) : Option Variant :=
  match ks with
  | 0#2 => some .aes128
  | 1#2 => some .aes192
  | 2#2 => some .aes256
  | _ => none

/-- The 2-bit code of a variant (R22). -/
def Variant.bits : Variant → BitVec 2
  | .aes128 => 0
  | .aes192 => 1
  | .aes256 => 2

/-- `nk`: the key length in words (R22). -/
def Variant.nk : Variant → Nat
  | .aes128 => 4
  | .aes192 => 6
  | .aes256 => 8

/-- `nr(ks) = nk(ks) + 6`: the round count (R22). -/
def Variant.nr (v : Variant) : Nat := v.nk + 6

/-- The number of schedule words, `4(Nr+1)` (R8). -/
def Variant.words (v : Variant) : Nat := 4 * (v.nr + 1)

/-- The KEY_WR value of exactly the first Nk key words, `(1 << nk) - 1` (R134). -/
def Variant.keyMask (v : Variant) : BitVec 8 := BitVec.ofNat 8 (2 ^ v.nk - 1)

/-- `v[31:8] ≠ 0`: an operand register that holds no byte (R118 to R120). -/
def exceedsByte (v : Word) : Bool := v.extractLsb' 8 24 != 0

/-- `v[7:0]`, the byte operand of a register (R118 to R120). -/
def lowByte (v : Word) : Byte := v.extractLsb' 0 8

/-- The offset of a register (R63). -/
def Reg.offset : Reg → BitVec 12
  | .ctrl => 0x000
  | .status => 0x004
  | .cmd => 0x008
  | .id => 0x00C
  | .state c => BitVec.ofNat 12 (0x010 + 4 * c.val)
  | .key k => BitVec.ofNat 12 (0x020 + 4 * k.val)
  | .opa => 0x040
  | .opb => 0x044
  | .result => 0x048
  | .rkey i => BitVec.ofNat 12 (0x100 + 4 * i.val)

/-- The register at a byte offset: only multiples of 4 (R61), only the offsets of the map R63, no alias (R62). -/
def regAt (off : BitVec 12) : Option Reg :=
  let a := off.toNat
  if a % 4 ≠ 0 then none
  else if a = 0x000 then some .ctrl
  else if a = 0x004 then some .status
  else if a = 0x008 then some .cmd
  else if a = 0x00C then some .id
  else if h : 0x010 ≤ a ∧ a < 0x020 then some (.state ⟨(a - 0x010) / 4, by omega⟩)
  else if h : 0x020 ≤ a ∧ a < 0x040 then some (.key ⟨(a - 0x020) / 4, by omega⟩)
  else if a = 0x040 then some .opa
  else if a = 0x044 then some .opb
  else if a = 0x048 then some .result
  else if h : 0x100 ≤ a ∧ a < 0x1F0 then some (.rkey ⟨(a - 0x100) / 4, by omega⟩)
  else none

/-- The register a legal access reaches: 4 bytes wide, aligned, mapped (R61, R62). -/
def accessed (off : BitVec 12) (size : Nat) : Option Reg :=
  if size = 4 then regAt off else none

end Sys2Proof.Machine
end

