-- ==== Sys2Proof/Machine/Flags.lean ====
section
/-! DEFINITION. CTRL and STATUS as words (R21, R26), the interrupt output (R238), and the flag updates every command
shares: acceptance and completion (R165, R233). -/

namespace Sys2Proof.Machine

/-- The 4-bit ERRCODE (R230). -/
def ErrCode.bits : ErrCode → BitVec 4
  | .none => 0
  | .illegalCmd => 1
  | .unsupportedVariant => 2
  | .invalidKeyLength => 3
  | .noSchedule => 4
  | .roundRange => 5
  | .operandRange => 6
  | .busy => 7

/-- A read of CTRL: `zext_32(IRQ_EN || KSIZE)` (R21, R25). -/
def ctrlWord (s : State) : Word := (BitVec.ofBool s.irqEn ++ s.ksize).setWidth 32

/-- A read of STATUS:
`zext_32(ERRCODE || KEY_WR || 0b0 || SCHED_KSIZE || SCHED_VALID || ERR_OVF || ERR || DONE || BUSY)` (R26, R32). -/
def statusWord (s : State) : Word :=
  (s.errCode.bits ++ s.keyWr ++ 0#1 ++ s.schedKsize ++ BitVec.ofBool s.schedValid ++ BitVec.ofBool s.errOvf
    ++ BitVec.ofBool s.err ++ BitVec.ofBool s.done ++ BitVec.ofBool s.busy).setWidth 32

/-- The level of the interrupt output: `IRQ_EN & (DONE | ERR)` (R23, R238). -/
def irq (s : State) : Bool := s.irqEn && (s.done || s.err)

/-- The class of a command, the FSM state that performs it (R94). -/
def classOf : Instr → Fsm
  | .keyExpand => .kexp
  | .encrypt => .enc
  | .decrypt => .dec
  | .nop | .zeroize | .clearKey => .prim
  | .subBytes | .invSubBytes | .shiftRows | .invShiftRows | .mixColumns | .invMixColumns => .prim
  | .addRoundKey _ => .prim
  | .gfMul | .sbox | .invSbox | .subWord | .rotWord => .prim

/-- Acceptance of a command: `BUSY <- 1; DONE <- 0; CUR_OP <- op; CUR_RND <- rnd; CTR <- 0; FSM <- its class`
(R233, R165). -/
def accept (op : BitVec 8) (rnd : BitVec 4) (cls : Fsm) (s : State) : State :=
  { s with busy := true, done := false, fsm := cls, curOp := op, curRnd := rnd, ctr := 0 }

/-- Completion, in the same engine step as the command's last effect: `BUSY <- 0; DONE <- 1; FSM <- IDLE` (R165). -/
def complete (s : State) : State := { s with busy := false, done := true, fsm := .idle }

/-- `KEY_WR[k] <- 1` (R31). -/
def setKeyWr (m : BitVec 8) (k : Fin 8) : BitVec 8 := m ||| (1#8 <<< k.val)

end Sys2Proof.Machine
end

