-- ==== Sys2Proof/Machine/Ops.lean ====
section
/-! DEFINITION. The shared operations: a bus response, recording an error and clearing the record (the spec's error
entry and return, R231, R236), reset (R270, R271), free reads (R67), and the two parts of a command (R188, R233). -/

namespace Sys2Proof.Machine

/-- What a step of this machine answers. -/
abbrev Result := Host.Outcome State Fault Refusal

/-- The bus returns a response to the host (R60, log 6). -/
def respond (r : Response) (s : State) : State := { s with responses := r :: s.responses }

/-- `raise Error(code)`: error entry. The record keeps the first code; a later error sets only ERR_OVF. Nothing else
changes (R231, R235, R237). -/
def raiseError (code : ErrCode) (s : State) : State :=
  if s.err then { s with errOvf := true } else { s with err := true, errCode := code }

/-- A CMD write while an error is recorded: only ERR_OVF is set (R232). -/
def refusePending (s : State) : State := { s with errOvf := true }

/-- Error return: `ERR <- 0; ERR_OVF <- 0; ERRCODE <- 0` (R236). -/
def ackError (s : State) : State := { s with err := false, errOvf := false, errCode := .none }

/-- The effect of the hardware reset and of SRST: every state element of R20 at its reset value (R47, R270, R271). The
inputs still to come, the responses already returned and the count of draws are the outside world's, and stay (log 5). -/
def toReset (s : State) : State :=
  { State.reset with events := s.events, responses := s.responses, draws := s.draws }

/-- A read that returns `draw()` and OKAY (R67): a fresh free value at each use (R13). -/
def respondDraw (s : State) : State :=
  { respond (.data (Config.draw s.draws)) s with draws := s.draws + 1 }

/-- The check that always passes (R233, "no further check"). -/
def noCheck (_ : State) : Verdict := .pass

/-- ENCRYPT, DECRYPT: `if SCHED_VALID == 0: raise Error(NO_SCHEDULE)` (R182, R184). -/
def checkSchedule (s : State) : Verdict := if s.schedValid then .pass else .refuse .noSchedule

/-- ADD_ROUND_KEY: NO_SCHEDULE, then ROUND_RANGE when `rnd > nr(SCHED_KSIZE)` (R164, R233). -/
def checkRound (rnd : Nat) (s : State) : Verdict :=
  if s.schedValid then
    match variantOf s.schedKsize with
    | none => .stuck .scheduleSizeThree
    | some v => if rnd > v.nr then .refuse .roundRange else .pass
  else .refuse .noSchedule

/-- KEY_EXPAND: UNSUPPORTED_VARIANT, then INVALID_KEY_LENGTH (R134, R233). -/
def checkKey (s : State) : Verdict :=
  match variantOf s.ksize with
  | none => .refuse .unsupportedVariant
  | some v => if s.keyWr ≠ v.keyMask then .refuse .invalidKeyLength else .pass

/-- SBOX, INV_SBOX: OPERAND_RANGE when OPA exceeds a byte (R119, R120). -/
def checkOpa (s : State) : Verdict := if exceedsByte s.opa then .refuse .operandRange else .pass

/-- GF_MUL: OPERAND_RANGE when OPA or OPB exceeds a byte (R118). -/
def checkOpaOpb (s : State) : Verdict :=
  if exceedsByte s.opa || exceedsByte s.opb then .refuse .operandRange else .pass

/-- The CMD write's own part of a command, BUSY being 0: refused while an error is recorded (R232), else the command's
check decides (R233). -/
def issue (verdict : Verdict) (accepted : State → State) (s : State) : Result :=
  if s.err then .next (refusePending s)
  else
    match verdict with
    | .pass => .next (accepted s)
    | .refuse code => .next (raiseError code s)
    | .stuck reason => .fault reason

/-- A command: its CMD write's part while the engine is idle (R233), its engine step while it is in progress; an engine
step exists only in the FSM state of the command's class (R188, log 2). -/
def command (check : State → Verdict) (accepted : State → State) (cls : Fsm) (engineStep : State → Result)
    (s : State) : Result :=
  if s.busy then
    if s.fsm = cls then engineStep s else .fault .noEngineRule
  else issue (check s) accepted s

/-- A single-operation command: one engine step performs it and completes it (R165). -/
def primCommand (op : BitVec 8) (rnd : BitVec 4) (check : State → Verdict) (effect : State → State) (s : State) :
    Result :=
  command check (accept op rnd .prim) .prim (fun t => .next (complete (effect t))) s

/-- The command word the engine has latched: CUR_RND and CUR_OP in their fields of format C (R43, R90). -/
def latchedWord (s : State) : Word := (s.curOp.setWidth 32) ||| (s.curRnd.setWidth 32 <<< 8)

end Sys2Proof.Machine
end

