-- ==== Sys2Proof/Machine/KeySchedule.lean ====
section
/-! DEFINITION. The key schedule (41_key_schedule.md): the word functions, the expansion, and the commands KEY_EXPAND,
SUB_WORD and ROT_WORD. -/

namespace Sys2Proof.Machine

/-- `RotWord(w) = rotl32(w, 8)` (R130). -/
def rotWord (w : Word) : Word := rotl32 w 8

/-- `SubWord(w)`: the S-box on each of the four bytes (R131). -/
def subWord (w : Word) : Word :=
  wordOf (sbox (byteOf w 0)) (sbox (byteOf w 1)) (sbox (byteOf w 2)) (sbox (byteOf w 3))

/-- The loop body of R133 for index `i ≥ Nk`, from the words at `i-1` and `i-Nk` (R133, R136). -/
def nextWord (v : Variant) (i : Nat) (previous back : Word) : Word :=
  let temp :=
    if i % v.nk = 0 then subWord (rotWord previous) ^^^ (zextByte (rcon (i / v.nk)) <<< 24)
    else if v.nk > 6 ∧ i % v.nk = 4 then subWord previous
    else previous
  temp ^^^ back

/-- The first `n` words of `ExpandKey(K, ks)`, in order (R133). -/
def expandWords (k : Vector Word 8) (v : Variant) : Nat → List Word
  | 0 => []
  | n + 1 =>
    let w := expandWords k v n
    w ++ [if n < v.nk then keyWord k n
          else nextWord v n ((w[n - 1]?).getD (Config.beyondSchedule (n - 1)))
            ((w[n - v.nk]?).getD (Config.beyondSchedule (n - v.nk)))]

/-- `ExpandKey(K, ks)`: the words `w[0 .. 4(Nr+1)-1]` (R133). -/
def expandKey (k : Vector Word 8) (v : Variant) : List Word := expandWords k v v.words

/-- Acceptance of KEY_EXPAND adds `X_KSIZE <- KSIZE; SCHED_VALID <- 0` (R134, R233). -/
def acceptKeyExpand (s : State) : State :=
  { accept 0x01 0 .kexp s with xKsize := s.ksize, schedValid := false }

/-- The schedule RAM after the load step: `W[i] <- K[i]` for i < Nk, `W[i] <- 0` from 4(Nr+1) on, the others as they
were (R135). -/
def loadedSchedule (v : Variant) (k : Vector Word 8) (w : Vector Word 60) : Vector Word 60 :=
  Vector.ofFn fun i : Fin 60 => if i.val < v.nk then keyWord k i.val else if v.words ≤ i.val then 0 else w[i]

/-- The load step of KEY_EXPAND, `CTR <- Nk` with it (R135). -/
def kexpLoad (v : Variant) (s : State) : State :=
  { s with sched := loadedSchedule v s.key s.sched, ctr := BitVec.ofNat 6 v.nk }

/-- Completion of KEY_EXPAND: `SCHED_VALID <- 1; SCHED_KSIZE <- X_KSIZE` and the common completion (R137). -/
def completeKeyExpand (s : State) : State :=
  complete { s with schedValid := true, schedKsize := s.xKsize }

/-- The word step for `i = CTR`: `W[i]`, then `CTR <- i + 1` or, at the last index, completion (R136). -/
def kexpWord (v : Variant) (i : Nat) (s : State) : State :=
  let w := nextWord v i (schedWord s.sched (i - 1)) (schedWord s.sched (i - v.nk))
  let t := { s with sched := s.sched.setIfInBounds i w }
  if i = v.words - 1 then completeKeyExpand t else { t with ctr := BitVec.ofNat 6 (i + 1) }

/-- An engine step of KEY_EXPAND (R135, R136; the KEXP rows of R188). -/
def kexpStep (s : State) : Result :=
  match variantOf s.xKsize with
  | none => .fault .noEngineRule
  | some v =>
    if s.ctr = 0 then .next (kexpLoad v s)
    else if v.nk ≤ s.ctr.toNat ∧ s.ctr.toNat < v.words then .next (kexpWord v s.ctr.toNat s)
    else .fault .noEngineRule

/-- KEY_EXPAND (R134 to R137). -/
def execKeyExpand (s : State) : Result := command checkKey acceptKeyExpand .kexp kexpStep s

/-- SUB_WORD: `RESULT <- SubWord(OPA)` (R138). -/
def execSubWord (s : State) : Result :=
  primCommand 0x23 0 noCheck (fun t => { t with result := subWord t.opa }) s

/-- ROT_WORD: `RESULT <- RotWord(OPA)` (R139). -/
def execRotWord (s : State) : Result :=
  primCommand 0x24 0 noCheck (fun t => { t with result := rotWord t.opa }) s

end Sys2Proof.Machine
end

