-- ==== Sys2Proof/Machine/Transforms.lean ====
section
/-! DEFINITION. The state transforms (42_state_transforms.md): the pure functions R150 to R156 and the seven
single-operation commands on S. -/

namespace Sys2Proof.Machine

/-- `SubBytesF(S)[r][c] = sbox(S[r][c])` (R150). -/
def subBytesF (b : Block) : Block := Block.ofFn fun r c => sbox (b.get r c)

/-- `InvSubBytesF(S)[r][c] = inv_sbox(S[r][c])` (R151). -/
def invSubBytesF (b : Block) : Block := Block.ofFn fun r c => invSbox (b.get r c)

/-- `ShiftRowsF(S)[r][c] = S[r][(c + r) mod 4]`; addition in `Fin 4` is modulo 4 (R152). -/
def shiftRowsF (b : Block) : Block := Block.ofFn fun r c => b.get r (c + r)

/-- `InvShiftRowsF(S)[r][c] = S[r][(c + 4 - r) mod 4]`; subtraction in `Fin 4` is modulo 4 (R153). -/
def invShiftRowsF (b : Block) : Block := Block.ofFn fun r c => b.get r (c - r)

/-- One column times the circulant matrix whose row 0 is `m0 m1 m2 m3`, each row the one before rotated one place
right: row r has `m(k - r)` at column k (R154, R155, 90_conflicts.md C3). -/
def mulColumn (m0 m1 m2 m3 : Byte) (a : Column) : Column :=
  ⟨gmul m0 a.r0 ^^^ gmul m1 a.r1 ^^^ gmul m2 a.r2 ^^^ gmul m3 a.r3,
   gmul m3 a.r0 ^^^ gmul m0 a.r1 ^^^ gmul m1 a.r2 ^^^ gmul m2 a.r3,
   gmul m2 a.r0 ^^^ gmul m3 a.r1 ^^^ gmul m0 a.r2 ^^^ gmul m1 a.r3,
   gmul m1 a.r0 ^^^ gmul m2 a.r1 ^^^ gmul m3 a.r2 ^^^ gmul m0 a.r3⟩

/-- A function on columns applied to each of the four. -/
def Block.mapColumns (f : Column → Column) (b : Block) : Block := ⟨f b.c0, f b.c1, f b.c2, f b.c3⟩

/-- `MixColumnsF(S)`: the matrix M with first row 02 03 01 01 (R154). -/
def mixColumnsF (b : Block) : Block := b.mapColumns (mulColumn 0x02 0x03 0x01 0x01)

/-- `InvMixColumnsF(S)`: the matrix IM with first row 0E 0B 0D 09 (R155). -/
def invMixColumnsF (b : Block) : Block := b.mapColumns (mulColumn 0x0E 0x0B 0x0D 0x09)

/-- `AddRoundKeyF(S, rnd)[r][c] = S[r][c] ^ byte(W[4·rnd + c], r)` (R156). -/
def addRoundKeyF (w : Vector Word 60) (rnd : Nat) (b : Block) : Block :=
  Block.ofFn fun r c => b.get r c ^^^ byteOf (schedWord w (4 * rnd + c.val)) r

/-- SUB_BYTES: `S <- SubBytesF(S)` (R158). -/
def execSubBytes (s : State) : Result :=
  primCommand 0x10 0 noCheck (fun t => { t with block := subBytesF t.block }) s

/-- INV_SUB_BYTES: `S <- InvSubBytesF(S)` (R159). -/
def execInvSubBytes (s : State) : Result :=
  primCommand 0x11 0 noCheck (fun t => { t with block := invSubBytesF t.block }) s

/-- SHIFT_ROWS: `S <- ShiftRowsF(S)` (R160). -/
def execShiftRows (s : State) : Result :=
  primCommand 0x12 0 noCheck (fun t => { t with block := shiftRowsF t.block }) s

/-- INV_SHIFT_ROWS: `S <- InvShiftRowsF(S)` (R161). -/
def execInvShiftRows (s : State) : Result :=
  primCommand 0x13 0 noCheck (fun t => { t with block := invShiftRowsF t.block }) s

/-- MIX_COLUMNS: `S <- MixColumnsF(S)` (R162). -/
def execMixColumns (s : State) : Result :=
  primCommand 0x14 0 noCheck (fun t => { t with block := mixColumnsF t.block }) s

/-- INV_MIX_COLUMNS: `S <- InvMixColumnsF(S)` (R163). -/
def execInvMixColumns (s : State) : Result :=
  primCommand 0x15 0 noCheck (fun t => { t with block := invMixColumnsF t.block }) s

/-- ADD_ROUND_KEY rnd: `S <- AddRoundKeyF(S, rnd)`; acceptance latches rnd in CUR_RND (R164, R165). -/
def execAddRoundKey (rnd : Nat) (s : State) : Result :=
  primCommand 0x16 (BitVec.ofNat 4 rnd) (checkRound rnd)
    (fun t => { t with block := addRoundKeyF t.sched rnd t.block }) s

end Sys2Proof.Machine
end

