-- ==== Sys2Proof/Machine/Cipher.lean ====
section
/-! DEFINITION. The block cipher (43_cipher_commands.md): the pure functions R180 and R181, and the commands ENCRYPT
and DECRYPT, one round an engine step. -/

namespace Sys2Proof.Machine

/-- A middle round of the forward cipher with round key `rnd` (R180). -/
def encRound (w : Vector Word 60) (rnd : Nat) (b : Block) : Block :=
  addRoundKeyF w rnd (mixColumnsF (shiftRowsF (subBytesF b)))

/-- The final round of the forward cipher: no MixColumns (R180). -/
def encFinal (w : Vector Word 60) (nr : Nat) (b : Block) : Block :=
  addRoundKeyF w nr (shiftRowsF (subBytesF b))

/-- The state after round `k < Nr` of the forward cipher (R180, R183). -/
def encRounds (w : Vector Word 60) (b : Block) : Nat → Block
  | 0 => addRoundKeyF w 0 b
  | k + 1 => encRound w (k + 1) (encRounds w b k)

/-- `Cipher(S, ks)` with the schedule W (R180). -/
def cipher (w : Vector Word 60) (v : Variant) (b : Block) : Block :=
  encFinal w v.nr (encRounds w b (v.nr - 1))

/-- A middle round of the inverse cipher with round key `rnd` (R181). -/
def decRound (w : Vector Word 60) (rnd : Nat) (b : Block) : Block :=
  invMixColumnsF (addRoundKeyF w rnd (invSubBytesF (invShiftRowsF b)))

/-- The final round of the inverse cipher, with round key 0 (R181). -/
def decFinal (w : Vector Word 60) (b : Block) : Block :=
  addRoundKeyF w 0 (invSubBytesF (invShiftRowsF b))

/-- The state after the step with CTR = `k < Nr` of the inverse cipher: round key `Nr - k` (R181, R185). -/
def decRounds (w : Vector Word 60) (nr : Nat) (b : Block) : Nat → Block
  | 0 => addRoundKeyF w nr b
  | k + 1 => decRound w (nr - (k + 1)) (decRounds w nr b k)

/-- `InvCipher(S, ks)` with the schedule W (R181). -/
def invCipher (w : Vector Word 60) (v : Variant) (b : Block) : Block :=
  decFinal w (decRounds w v.nr b (v.nr - 1))

/-- A non-completing engine step of ENC or DEC: the new S, and `CTR <- CTR + 1` (R183, R185). -/
def roundStep (b : Block) (s : State) : State := { s with block := b, ctr := s.ctr + 1 }

/-- An engine step of ENCRYPT, with `Nr = nr(SCHED_KSIZE)` (R183). -/
def encStep (s : State) : Result :=
  match variantOf s.schedKsize with
  | none => .fault .noEngineRule
  | some v =>
    let k := s.ctr.toNat
    if k = 0 then .next (roundStep (addRoundKeyF s.sched 0 s.block) s)
    else if k < v.nr then .next (roundStep (encRound s.sched k s.block) s)
    else if k = v.nr then .next (complete { s with block := encFinal s.sched v.nr s.block })
    else .fault .noEngineRule

/-- An engine step of DECRYPT, with `Nr = nr(SCHED_KSIZE)` (R185). -/
def decStep (s : State) : Result :=
  match variantOf s.schedKsize with
  | none => .fault .noEngineRule
  | some v =>
    let k := s.ctr.toNat
    if k = 0 then .next (roundStep (addRoundKeyF s.sched v.nr s.block) s)
    else if k < v.nr then .next (roundStep (decRound s.sched (v.nr - k) s.block) s)
    else if k = v.nr then .next (complete { s with block := decFinal s.sched s.block })
    else .fault .noEngineRule

/-- ENCRYPT (R182, R183). -/
def execEncrypt (s : State) : Result := command checkSchedule (accept 0x02 0 .enc) .enc encStep s

/-- DECRYPT (R184, R185). -/
def execDecrypt (s : State) : Result := command checkSchedule (accept 0x03 0 .dec) .dec decStep s

end Sys2Proof.Machine
end

