-- ==== Sys2Proof/Machine/Control.lean ====
section
/-! DEFINITION. The control commands NOP, ZEROIZE and CLEAR_KEY (44_control_commands.md). -/

namespace Sys2Proof.Machine

/-- The effect of CLEAR_KEY: `K[0..7] <- 0; KEY_WR <- 0x00` (R212). -/
def clearKeys (s : State) : State := { s with key := Vector.replicate 8 0, keyWr := 0 }

/-- The effect of ZEROIZE: S, K, KEY_WR, OPA, OPB, RESULT, W, SCHED_VALID and SCHED_KSIZE to 0 (R211). -/
def zeroizeData (s : State) : State :=
  { s with
    block := Block.zero
    key := Vector.replicate 8 0
    keyWr := 0
    opa := 0
    opb := 0
    result := 0
    sched := Vector.replicate 60 0
    schedValid := false
    schedKsize := 0 }

/-- NOP: no state change but BUSY and DONE (R210). -/
def execNop (s : State) : Result := primCommand 0x00 0 noCheck (fun t => t) s

/-- ZEROIZE (R211). -/
def execZeroize (s : State) : Result := primCommand 0x04 0 noCheck zeroizeData s

/-- CLEAR_KEY (R212). -/
def execClearKey (s : State) : Result := primCommand 0x05 0 noCheck clearKeys s

end Sys2Proof.Machine
end

