-- ==== Sys2Proof/Machine/Dispatch.lean ====
section
/-! DEFINITION. The one match from commands to meanings. `exec i s` is the part of command i that falls due in s: while
BUSY = 0 what its CMD write does (check, accept or refuse, R233), while BUSY = 1 its engine step (R188) (log 2). -/

namespace Sys2Proof.Machine

def exec (i : Instr) (s : State) : Host.Outcome State Fault Refusal :=
  match i with
  -- 44_control_commands.md, 41_key_schedule.md, 43_cipher_commands.md
  | .nop => Sys2Proof.Machine.execNop s
  | .keyExpand => Sys2Proof.Machine.execKeyExpand s
  | .encrypt => Sys2Proof.Machine.execEncrypt s
  | .decrypt => Sys2Proof.Machine.execDecrypt s
  | .zeroize => Sys2Proof.Machine.execZeroize s
  | .clearKey => Sys2Proof.Machine.execClearKey s
  -- 42_state_transforms.md
  | .subBytes => Sys2Proof.Machine.execSubBytes s
  | .invSubBytes => Sys2Proof.Machine.execInvSubBytes s
  | .shiftRows => Sys2Proof.Machine.execShiftRows s
  | .invShiftRows => Sys2Proof.Machine.execInvShiftRows s
  | .mixColumns => Sys2Proof.Machine.execMixColumns s
  | .invMixColumns => Sys2Proof.Machine.execInvMixColumns s
  | .addRoundKey rnd => Sys2Proof.Machine.execAddRoundKey rnd s
  -- 40_field_and_tables.md, 41_key_schedule.md
  | .gfMul => Sys2Proof.Machine.execGfMul s
  | .sbox => Sys2Proof.Machine.execSbox s
  | .invSbox => Sys2Proof.Machine.execInvSbox s
  | .subWord => Sys2Proof.Machine.execSubWord s
  | .rotWord => Sys2Proof.Machine.execRotWord s

end Sys2Proof.Machine
end

