-- ==== Sys2Proof/Machine/Bus.lean ====
section
/-! DEFINITION. Host accesses (20_memory.md): what each register read returns and what each register write does, the
CMD write (R233) among them; and the turn of the ENGINE (R189). -/

namespace Sys2Proof.Machine

/-- The ID constant: "A", "E", "S", 0x07 (R3, R34). -/
def idValue : Word := 0x41455307

/-- A read of STATE, RESULT or RKEY: its value while BUSY = 0, `draw()` while BUSY = 1 (R67, R274). -/
def readData (w : Word) (s : State) : State :=
  if s.busy then respondDraw s else respond (.data w) s

/-- A read of a register (R63). No read changes the engine's state (R64); CMD and KEY read 0 (R33, R36). -/
def readReg (r : Reg) (s : State) : State :=
  match r with
  | .ctrl => respond (.data (ctrlWord s)) s
  | .status => respond (.data (statusWord s)) s
  | .cmd => respond (.data 0) s
  | .id => respond (.data idValue) s
  | .state c => readData (s.block.stateWord c) s
  | .key _ => respond (.data 0) s
  | .opa => respond (.data s.opa) s
  | .opb => respond (.data s.opb) s
  | .result => readData s.result s
  | .rkey i => readData s.sched[i] s

/-- `BusRead(off)` of `size` bytes: BUSERR and no state change where the access is not legal (R60 to R62). -/
def busRead (off : BitVec 12) (size : Nat) (s : State) : State :=
  match accessed off size with
  | none => respond .busErr s
  | some r => readReg r s

/-- A data write: performed while BUSY = 0; while BUSY = 1 dropped, and a BUSY error recorded (R66). -/
def whenIdle (write : State → State) (s : State) : State :=
  if s.busy then raiseError .busy s else write s

/-- A write of v to CTRL: SRST at any time; else KSIZE and IRQ_EN while idle (R21, R24, R25). -/
def writeCtrl (v : Word) (s : State) : State :=
  if v.getLsbD 31 then toReset s
  else whenIdle (fun t => { t with ksize := v.extractLsb' 0 2, irqEn := v.getLsbD 2 }) s

/-- A write of v to STATUS: write-1-to-clear DONE (bit 1) and the error record (bit 2), busy or idle (R26). -/
def writeStatus (v : Word) (s : State) : State :=
  let t := if v.getLsbD 1 then { s with done := false } else s
  if v.getLsbD 2 then ackError t else t

/-- `BusWrite(CMD, c)` in the order of R233: BUSY, then a pending error (refused without decoding, R232), then the
decoder, then the command's own part. -/
def writeCmd (c : Word) (s : State) : Result :=
  if s.busy then .next (raiseError .busy s)
  else if s.err then .next (refusePending s)
  else
    match decode c with
    | .error _ => .next (raiseError .illegalCmd s)
    | .ok i => exec i s

/-- A write of v to a register (R63); a write to a read-only register is ignored (R65). -/
def writeReg (r : Reg) (v : Word) (s : State) : Result :=
  match r with
  | .ctrl => .next (writeCtrl v s)
  | .status => .next (writeStatus v s)
  | .cmd => writeCmd v s
  | .id => .next s
  | .state c => .next (whenIdle (fun t => { t with block := t.block.setStateWord c v }) s)
  | .key k => .next (whenIdle (fun t => { t with key := t.key.set k v, keyWr := setKeyWr t.keyWr k }) s)
  | .opa => .next (whenIdle (fun t => { t with opa := v }) s)
  | .opb => .next (whenIdle (fun t => { t with opb := v }) s)
  | .result => .next s
  | .rkey _ => .next s

/-- `BusWrite(off, v)` of `size` bytes: BUSERR and no state change where the access is not legal; every legal write
returns OKAY (R60 to R62, R233). -/
def busWrite (off : BitVec 12) (size : Nat) (v : Word) (s : State) : Result :=
  match accessed off size with
  | none => .next (respond .busErr s)
  | some r => writeReg r v (respond .okay s)

/-- The command in progress, read back from CUR_OP and CUR_RND (R43). -/
def latchedCommand (s : State) : Option Instr := (decode (latchedWord s)).toOption

/-- A turn of the ENGINE: one engine step of the latched command when BUSY = 1; when BUSY = 0 it has none (R189,
log 9). -/
def engineTurn (s : State) : Result :=
  if s.busy then
    match latchedCommand s with
    | none => .fault .noEngineRule
    | some i => exec i s
  else .next s

/-- One input of the total order (R7). -/
def perform (e : Event) (s : State) : Result :=
  match e with
  | .read off size => .next (busRead off size s)
  | .write off size v => busWrite off size v s
  | .engine => engineTurn s
  | .reset => .next (toReset s)

end Sys2Proof.Machine
end

