-- ==== Sys2Proof/Machine/Step.lean ====
section
/-! DEFINITION. The step: the next input of the total order R7, or, when none is left, a turn of the ENGINE (R189). -/

namespace Sys2Proof.Machine

/-- One step: the first pending input is taken off `events` and performed; with no input pending, the turn is the
ENGINE's (R7, R189, log 1). -/
def step (s : State) : Host.Outcome State Fault Refusal :=
  match s.events with
  | [] => engineTurn s
  | e :: rest => perform e { s with events := rest }

/-- `s` with the command word placed where the machine takes its next command: the next input is a CMD write of it. The
engine is idle with no error recorded, as R233 asks of a CMD write that is to be decoded; where `s` is so already, only
`events` changes (log 3). -/
def State.withFetchWord (s : State) (nbits w : Nat) : State :=
  { s with
    busy := false
    fsm := .idle
    err := false
    errOvf := false
    errCode := .none
    events := .write 0x008 4 (tableWord nbits w) :: s.events }

end Sys2Proof.Machine
end

