-- ==== Sys2Proof/Machine/HostContract.lean ====
section
/-! DEFINITION. The host-side multi-block contract (R196 to R198): host software around the engine, kept as pure
functions over the engine's cipher and schedule. No engine step uses them (log 18). -/

namespace Sys2Proof.Machine

/-- The 16 bytes of a block in order: byte n is `S[n mod 4][n div 4]` (R11, R68). -/
def Block.bytes (b : Block) : List Byte :=
  [b.c0.r0, b.c0.r1, b.c0.r2, b.c0.r3, b.c1.r0, b.c1.r1, b.c1.r2, b.c1.r3,
   b.c2.r0, b.c2.r1, b.c2.r2, b.c2.r3, b.c3.r0, b.c3.r1, b.c3.r2, b.c3.r3]

/-- The block of the first 16 bytes: `S[r][c]` is byte `r + 4c` (R11); bytes a shorter list lacks are the padding byte
0x00 (R196). -/
def blockOfBytes (m : List Byte) : Block := Block.ofFn fun r c => (m[r.val + 4 * c.val]?).getD 0x00

/-- `n = max(1, ceil(L / 16))` (R196). -/
def blockCount (length : Nat) : Nat := max 1 ((length + 15) / 16)

/-- The message padded on the right with 0x00 to `16·n` bytes (R196). -/
def padMessage (m : List Byte) : List Byte :=
  m ++ List.replicate (16 * blockCount m.length - m.length) 0x00

/-- The first `n` blocks of a byte sequence (R196). -/
def splitBlocks : Nat → List Byte → List Block
  | 0, _ => []
  | n + 1, m => blockOfBytes m :: splitBlocks n (m.drop 16)

/-- Blocks concatenated as bytes, in order (R196, R198). -/
def joinBlocks (bs : List Block) : List Byte := bs.flatMap Block.bytes

/-- Multi-block encryption by the host: each block of the padded message by itself (R196). -/
def encryptMessage (w : Vector Word 60) (v : Variant) (m : List Byte) : List Byte :=
  joinBlocks ((splitBlocks (blockCount m.length) (padMessage m)).map (cipher w v))

/-- Multi-block decryption by the host: refused where the length is not a multiple of 16; the padding stays (R197). -/
def decryptMessage (w : Vector Word 60) (v : Variant) (m : List Byte) : Option (List Byte) :=
  if m.length % 16 ≠ 0 then none
  else some (joinBlocks ((splitBlocks (m.length / 16) m).map (invCipher w v)))

end Sys2Proof.Machine
end

