-- ==== Sys2Proof/Machine/HostProgram.lean ====
section
/-! DEFINITION. The host's side of the interface: the assembler (R99), host programs (R100) and the pseudo-instructions
(R101), and a run of a host program beside the engine under any interleaving (R7, R281). None of this is state of the
engine (log 17, log 20). -/

namespace Sys2Proof.Machine

/-- The commands whose text has no operand (R99). -/
def plainCommands : List Instr :=
  [.nop, .keyExpand, .encrypt, .decrypt, .zeroize, .clearKey, .subBytes, .invSubBytes, .shiftRows, .invShiftRows,
   .mixColumns, .invMixColumns, .gfMul, .sbox, .invSbox, .subWord, .rotWord]

/-- The assembler: ADD_ROUND_KEY takes one operand 0..15, no other mnemonic takes one (R99). -/
def assemble (mnemonic : String) (operand : Option Nat) : Option Instr :=
  match operand with
  | none => plainCommands.find? fun i => i.row.mnemonic == mnemonic
  | some n => if mnemonic = "ADD_ROUND_KEY" ∧ n ≤ 15 then some (.addRoundKey n) else none

/-- The value of a digit, `none` for another character. -/
def digitOf (c : Char) : Option Nat :=
  if '0' ≤ c ∧ c ≤ '9' then some (c.toNat - '0'.toNat)
  else if 'a' ≤ c ∧ c ≤ 'f' then some (c.toNat - 'a'.toNat + 10)
  else if 'A' ≤ c ∧ c ≤ 'F' then some (c.toNat - 'A'.toNat + 10)
  else none

/-- Digits in a base, the value so far in `acc`. -/
def digitsValue (base : Nat) : List Char → Nat → Option Nat
  | [], acc => some acc
  | c :: cs, acc =>
    match digitOf c with
    | none => none
    | some d => if d < base then digitsValue base cs (base * acc + d) else none

/-- A decimal or `0x` number (R99). -/
def parseNumber : List Char → Option Nat
  | [] => none
  | '0' :: 'x' :: [] => none
  | '0' :: 'x' :: ds => digitsValue 16 ds 0
  | ds => digitsValue 10 ds 0

/-- A command's text: its mnemonic, then, after one space, its operand (R99). -/
def assembleText (text : List Char) : Option Instr :=
  let mnemonic := String.ofList (text.takeWhile (· ≠ ' '))
  match text.dropWhile (· ≠ ' ') with
  | [] => assemble mnemonic none
  | _ :: operand =>
    match parseNumber operand with
    | none => none
    | some n => assemble mnemonic (some n)

/-- A line of a host program (R100). -/
inductive HostLine where
  /-- `WR <reg>, <imm32>`. -/
  | wr (r : Reg) (v : Word)
  /-- `RD <reg> -> <name>`, or `RD <reg>`. -/
  | rd (r : Reg) (name : Option String)
  /-- `<label>:`. -/
  | label (l : String)
  /-- `BNZ <value>, <mask>, <label>`. -/
  | bnz (value : String) (mask : Word) (target : String)
  deriving DecidableEq, Repr

/-- The pseudo-instructions of R101. DESIGN CHOICES (log 17): WAIT and RUN carry the label their poll loop uses; SETKS
carries the IRQ_EN it writes, because R101 writes `zext_32(IRQ_EN || n)` and does not say how the host knows IRQ_EN. -/
inductive Pseudo where
  | exec (i : Instr)
  | wait (l : String)
  | run (i : Instr) (l : String)
  | ack
  | ldState (b : Block)
  | rdState
  | ldKey (bytes : List Byte)
  | setKs (irqEn : Bool) (n : BitVec 2)
  deriving DecidableEq, Repr

/-- Bytes packed four to a word, `word(b0, b1, b2, b3)` (R69). -/
def packWords : List Byte → List Word
  | a :: b :: c :: d :: rest => wordOf a b c d :: packWords rest
  | _ => []

/-- `WR KEYk` for consecutive k. -/
def keyLines (ws : List Word) : List HostLine :=
  (List.finRange 8).zipWith (fun k w => .wr (.key k) w) ws

/-- `EXEC <cmd>` (R101). -/
def execLines (i : Instr) : List HostLine := [.wr .cmd (encode i)]

/-- `WAIT`: poll until BUSY = 0 (R101). -/
def waitLines (l : String) : List HostLine := [.label l, .rd .status (some "t"), .bnz "t" 0x1 l]

/-- The expansion of a pseudo-instruction (R101). The IRQ_EN that SETKS writes is the host's own argument, not the engine's
CTRL.IRQ_EN (DESIGN CHOICE, log 17). -/
def Pseudo.expand : Pseudo → List HostLine
  | .exec i => execLines i
  | .wait l => waitLines l
  | .run i l => execLines i ++ waitLines l
  | .ack => [.wr .status 0x00000006]
  | .ldState b => (List.finRange 4).map fun c => .wr (.state c) (b.stateWord c)
  | .rdState => (List.finRange 4).map fun c => .rd (.state c) none
  | .ldKey bytes => keyLines (packWords bytes)
  | .setKs irqEn n => [.wr .ctrl ((BitVec.ofBool irqEn ++ n).setWidth 32)]

/-- HOST running a program: the line it is at, and the values its reads have bound (R100). -/
structure HostAgent where
  program : List HostLine
  line : Nat
  bound : List (String × Word)
  deriving DecidableEq, Repr

/-- The line of a label. -/
def HostAgent.lineOf (h : HostAgent) (l : String) : Option Nat := h.program.findIdx? (· == .label l)

/-- A line that is a host access (R100); a label or a BNZ line is host control flow. -/
def HostLine.isAccess : HostLine → Bool
  | .wr _ _ => true
  | .rd _ _ => true
  | .label _ => false
  | .bnz _ _ _ => false

/-- Where the host's control flow goes from a label or a BNZ line (R100), with the values bound so far. `none` at an access,
past the last line, and at a branch on a name no read has bound or to a label the program does not have (log 17). -/
def HostAgent.controlFrom (h : HostAgent) (line : Nat) : Option Nat :=
  match h.program[line]? with
  | some (.label _) => some (line + 1)
  | some (.bnz x mask l) =>
    match h.bound.lookup x, h.lineOf l with
    | some w, some target => some (if w &&& mask ≠ 0 then target else line + 1)
    | _, _ => none
  | some (.wr _ _) => none
  | some (.rd _ _) => none
  | none => none

/-- The first access that control flow reaches from a line, within `fuel` lines. -/
def HostAgent.accessFrom (h : HostAgent) : Nat → Nat → Option Nat
  | 0, _ => none
  | fuel + 1, line =>
    match h.program[line]? with
    | none => none
    | some l =>
      if l.isAccess then some line
      else
        match h.controlFrom line with
        | none => none
        | some next => h.accessFrom fuel next

/-- The line of the next access the host performs, `none` when it has performed its last one: control flow runs past the
last line, ends, or never reaches an access again. As many lines as the program has are enough, because control flow reads
nothing new and so repeats itself after them (`accessFrom_le_nextAccess` in Sys2Proof/Laws/HostProgram.lean). -/
def HostAgent.nextAccess (h : HostAgent) : Option Nat := h.accessFrom h.program.length h.line

/-- The name a read binds, with the data the bus returned last. -/
def HostAgent.bind (h : HostAgent) (name : Option String) (s : State) : HostAgent :=
  match name, s.responses with
  | some x, .data w :: _ => { h with bound := (x, w) :: h.bound }
  | _, _ => h

/-- A turn of HOST: its next access (R7, R60), with the control flow before it, which is no event of R7's order (log 20).
`none` where the host has no further access, or the engine stops. -/
def hostTurn (h : HostAgent) (s : State) : Option (HostAgent × State) :=
  match h.nextAccess with
  | none => none
  | some line =>
    match h.program[line]? with
    | some (.wr r v) =>
      match busWrite r.offset 4 v s with
      | .next t => some ({ h with line := line + 1 }, t)
      | .fault _ => none
      | .refused _ => none
    | some (.rd r name) =>
      let t := busRead r.offset 4 s
      some ({ h with line := line + 1 }.bind name t, t)
    | some (.label _) => none
    | some (.bnz _ _ _) => none
    | none => none

/-- Whose turn it is: a host access, an engine step or a reset, the three that R7 orders. -/
inductive Turn where
  | host
  | engine
  | reset
  deriving DecidableEq, Repr

/-- One turn of the whole system. -/
def systemTurn (turn : Turn) (h : HostAgent) (s : State) : Option (HostAgent × State) :=
  match turn with
  | .host => hostTurn h s
  | .engine =>
    match engineTurn s with
    | .next t => some (h, t)
    | .fault _ => none
    | .refused _ => none
  | .reset => some (h, toReset s)

/-- The run of a host program ends when the host has performed its last access and BUSY = 0 (R281). -/
def runEnded (h : HostAgent) (s : State) : Bool := h.nextAccess.isNone && !s.busy

/-- A host program beside the engine under one interleaving (R7), up to the point where its run ends: later turns are no
part of the run (R281). -/
def systemRun : List Turn → HostAgent → State → Option (HostAgent × State)
  | [], h, s => some (h, s)
  | turn :: rest, h, s =>
    if runEnded h s then some (h, s)
    else
      match systemTurn turn h s with
      | none => none
      | some (h', s') => systemRun rest h' s'

/-- The result of a host program's run under an interleaving that lets it end: what its reads returned (the names bound in
HOST, all of them in `State.responses`) and the register state at that point (R281). -/
def runResult (turns : List Turn) (h : HostAgent) (s : State) : Option (HostAgent × State) :=
  (systemRun turns h s).filter fun r => runEnded r.1 r.2

end Sys2Proof.Machine
end

