-- ==== Sys2Proof/Safety.lean ====
section
/-! DEFINITION. What counts as a safe state of AES-CORE, in the terms the claims use: the invariants of R48 with what
they rest on, the schedule invariant of R30 and R39, and the number of engine steps a command still takes. -/

namespace Sys2Proof.Machine

/-- `k` steps of the machine, stopping at the first fault or refusal. -/
def runSteps (k : Nat) (s : State) : Result := Sys2Proof.core.run k s

/-- A command write now would be decoded: BUSY = 0 and no error recorded (R233). -/
structure Idle (s : State) : Prop where
  busy : s.busy = false
  err : s.err = false

/-- The engine is in progress with a command of class `cls` (R42). -/
structure Running (cls : Fsm) (s : State) : Prop where
  busy : s.busy = true
  fsm : s.fsm = cls

/-- Every element at its reset value: the table of R47, and irq low. -/
structure AtResetValues (t : State) : Prop where
  ksize : t.ksize = 0
  irqEn : t.irqEn = false
  busy : t.busy = false
  done : t.done = false
  err : t.err = false
  errOvf : t.errOvf = false
  errCode : t.errCode.bits = 0
  schedValid : t.schedValid = false
  schedKsize : t.schedKsize = 0
  keyWr : t.keyWr = 0
  block : ∀ r c, t.block.get r c = 0
  key : ∀ k : Fin 8, t.key[k] = 0
  opa : t.opa = 0
  opb : t.opb = 0
  result : t.result = 0
  sched : ∀ i : Fin 60, t.sched[i] = 0
  fsm : t.fsm = .idle
  curOp : t.curOp = 0
  curRnd : t.curRnd = 0
  ctr : t.ctr = 0
  xKsize : t.xKsize = 0
  irq : Machine.irq t = false

/-- Where the command in progress stands (R44, R80, R183, R185): the counter and the key size are in the range of its
rules, and it holds the schedule its rules read. -/
def ProgressOk (s : State) : Prop :=
  match s.fsm with
  | .idle => True
  | .prim => ∀ rnd, latchedCommand s = some (.addRoundKey rnd) →
      s.schedValid = true ∧ ∃ v, variantOf s.schedKsize = some v ∧ rnd ≤ v.nr
  | .kexp => s.schedValid = false ∧
      ∃ v, variantOf s.xKsize = some v ∧ (s.ctr = 0 ∨ (v.nk ≤ s.ctr.toNat ∧ s.ctr.toNat < v.words))
  | .enc => s.schedValid = true ∧ ∃ v, variantOf s.schedKsize = some v ∧ s.ctr.toNat ≤ v.nr
  | .dec => s.schedValid = true ∧ ∃ v, variantOf s.schedKsize = some v ∧ s.ctr.toNat ≤ v.nr

/-- The invariant of the machine: R48, and for the command in progress that CUR_OP and CUR_RND hold a command of FSM's
class (R42, R43) whose progress is in range. -/
structure Inv (s : State) : Prop where
  busy_iff : s.busy = true ↔ s.fsm ≠ .idle
  no_error : s.err = false → s.errCode = .none ∧ s.errOvf = false
  error : s.err = true → s.errCode ≠ .none
  sched_size : s.schedKsize ≠ 3
  latched : s.busy = true → ∃ i, latchedCommand s = some i ∧ classOf i = s.fsm
  progress : ProgressOk s

/-- The words of `w` below `n` obey the recurrence of R133 from index Nk on. -/
def Expanded (v : Variant) (n : Nat) (w : Vector Word 60) : Prop :=
  ∀ i, v.nk ≤ i → i < n → schedWord w i = nextWord v i (schedWord w (i - 1)) (schedWord w (i - v.nk))

/-- The words from `4(Nr+1)` on are 0 (R39). -/
def ZeroBeyond (v : Variant) (w : Vector Word 60) : Prop :=
  ∀ i : Fin 60, v.words ≤ i.val → w[i] = 0

/-- SCHED_VALID = 1 means W holds a complete schedule for SCHED_KSIZE, zero beyond it (R30, R39); while KEY_EXPAND is
past its load step, the words below CTR are in place (R136). -/
structure ScheduleInv (s : State) : Prop where
  valid : s.schedValid = true → ∀ v, variantOf s.schedKsize = some v →
    Expanded v v.words s.sched ∧ ZeroBeyond v s.sched
  expanding : s.fsm = .kexp → s.ctr ≠ 0 → ∀ v, variantOf s.xKsize = some v →
    Expanded v s.ctr.toNat s.sched ∧ ZeroBeyond v s.sched

/-- The engine steps the command in progress still takes (R141, R186, R189): 0 when idle. -/
def stepsLeft (s : State) : Nat :=
  match s.fsm with
  | .idle => 0
  | .prim => 1
  | .kexp =>
    match variantOf s.xKsize with
    | none => 0
    | some v => if s.ctr = 0 then 1 + (v.words - v.nk) else v.words - s.ctr.toNat
  | .enc | .dec =>
    match variantOf s.schedKsize with
    | none => 0
    | some v => v.nr + 1 - s.ctr.toNat

/-- Two states that agree on every element but the key registers K (R36). -/
def SameButKey (s t : State) : Prop := { s with key := t.key } = t

/-- A host access other than a soft reset (R24), or a turn of the engine: the inputs R190 speaks of. -/
def Undisturbing (e : Event) : Prop :=
  match e with
  | .read _ _ => True
  | .write off size v => ¬ (accessed off size = some .ctrl ∧ v.getLsbD 31 = true)
  | .engine => True
  | .reset => False

/-- The engine has the next turn (R7, R189): the next input is one, or no input is left (log 1). -/
def EngineNext (s : State) : Prop := s.events = [] ∨ ∃ rest, s.events = .engine :: rest

/-- The next input is a reset: the hardware reset or a CTRL write with SRST (R270, R271). -/
def ResetNext (s : State) : Prop :=
  (∃ rest, s.events = .reset :: rest) ∨ ∃ v rest, s.events = .write 0x000 4 v :: rest ∧ v.getLsbD 31 = true

/-- The state with its next input taken and one response returned: what every access does besides its own effect
(log 1, log 6). -/
def answered (r : Response) (rest : List Event) (s : State) : State :=
  { s with events := rest, responses := r :: s.responses }

end Sys2Proof.Machine
end

