-- ==== Sys2Proof/Certificates/Slice0/Obligations.lean ====
section
/-! DEFINITION. What is claimed of AES-CORE. Each statement names the rule of the spec it formalises. -/

open Sys2Proof Sys2Proof.Machine

/-! ## Reset -/

/-- R47: State.reset holds the value the table gives every element; irq is low. -/
def Obligations.ResetStateHoldsResetValues : Prop := AtResetValues State.reset

/-- R270, R271, R24: the hardware reset and a CTRL write with bit 31 set leave every element at its reset value from
every state, busy or idle; the write returns OKAY. That the inputs still to come, the earlier responses and the count of
draws stay is the model's choice (log 5). -/
def Obligations.ResetsReachResetValues : Prop :=
  (∀ (s : State) (rest : List Event), s.events = .reset :: rest →
    ∃ t, step s = .next t ∧ AtResetValues t ∧ t.events = rest ∧ t.responses = s.responses ∧ t.draws = s.draws) ∧
  (∀ (s : State) (rest : List Event) (v : Word), s.events = .write 0x000 4 v :: rest → v.getLsbD 31 = true →
    ∃ t, step s = .next t ∧ AtResetValues t ∧ t.events = rest ∧ t.responses = .okay :: s.responses ∧
      t.draws = s.draws)

/-! ## Encoding -/

/-- R90, R98: decoding the word of a well-formed command gives it back, and every word that decodes is the word of the
well-formed command it decodes to. -/
def Obligations.DecodeEncodeAgree : Prop :=
  (∀ i : Instr, i.wellFormed = true → decode (encode i) = .ok i) ∧
  (∀ (c : Word) (i : Instr), decode c = .ok i → i.wellFormed = true ∧ encode i = c)

/-- R94: a command word selects the row of the opcode map when `(c & mask) = match`, and no other row. -/
def Obligations.OpcodeMapSelectsTheDecodedCommand : Prop :=
  ∀ c : Word,
    (∀ i : Instr, decode c = .ok i → i.row.selects c = true) ∧
    (∀ j : Instr, j.row.selects c = true → ∃ i, decode c = .ok i ∧ i.row = j.row)

/-- R93, R95: a word with a reserved bit set, with RND set on an OPCODE other than 0x16, or with a reserved OPCODE is
refused with ILLEGAL_CMD and nothing else happens; every other word decodes. -/
def Obligations.IllegalWordsAreRefused : Prop :=
  ∀ c : Word,
    let op := (c.extractLsb' 0 8).toNat
    let illegal := c.extractLsb' 12 20 ≠ 0 ∨ (c.extractLsb' 8 4 ≠ 0 ∧ op ≠ 0x16) ∨
      (0x06 ≤ op ∧ op ≤ 0x0F) ∨ (0x17 ≤ op ∧ op ≤ 0x1F) ∨ 0x25 ≤ op
    (illegal → ∀ (s : State) (rest : List Event), Idle s → s.events = .write 0x008 4 c :: rest →
      step s = .next { answered .okay rest s with err := true, errCode := .illegalCmd }) ∧
    (¬ illegal → ∃ i, decode c = .ok i)

/-- R94, R98, L2-DEC: some command words and what they decode to. -/
def Obligations.SampleWordsDecode : Prop :=
  decode 0x00000000 = .ok .nop ∧ decode 0x00000001 = .ok .keyExpand ∧ decode 0x00000003 = .ok .decrypt ∧
  decode 0x00000015 = .ok .invMixColumns ∧ decode 0x00000316 = .ok (.addRoundKey 3) ∧
  decode 0x00000F16 = .ok (.addRoundKey 15) ∧ decode 0x00000020 = .ok .gfMul ∧ decode 0x00000024 = .ok .rotWord ∧
  decode 0x00000017 = .error .reservedOpcode ∧ decode 0x00000101 = .error .rndNotZero ∧
  decode 0x00001016 = .error .reservedBits

/-- R99: the assembler turns a command's mnemonic, with the round index for ADD_ROUND_KEY only, into the command, and
refuses an operand above 15 or on any other mnemonic. -/
def Obligations.AssemblerTakesTheTableSyntax : Prop :=
  (∀ i ∈ plainCommands, assemble i.row.mnemonic none = some i ∧ ∀ n, assemble i.row.mnemonic (some n) = none) ∧
  (∀ n, n ≤ 15 → assemble "ADD_ROUND_KEY" (some n) = some (.addRoundKey n)) ∧
  (∀ n, 15 < n → assemble "ADD_ROUND_KEY" (some n) = none) ∧
  assemble "ADD_ROUND_KEY" none = none

/-! ## Acceptance -/

/-- R165, R233: the single-operation commands without a check of their own are accepted by an idle engine. -/
def Obligations.PlainCommandsAreAccepted : Prop :=
  ∀ p ∈ [(Instr.nop, 0x00#8), (.zeroize, 0x04#8), (.clearKey, 0x05#8), (.subBytes, 0x10#8), (.invSubBytes, 0x11#8),
      (.shiftRows, 0x12#8), (.invShiftRows, 0x13#8), (.mixColumns, 0x14#8), (.invMixColumns, 0x15#8),
      (.subWord, 0x23#8), (.rotWord, 0x24#8)],
    ∀ s : State, Idle s →
      exec p.1 s = .next { s with busy := true, done := false, fsm := .prim, curOp := p.2, curRnd := 0, ctr := 0 }

/-- R134: KEY_EXPAND is refused for key size 3, then for a KEY_WR other than exactly the Nk words, and else accepted. -/
def Obligations.KeyExpandIsCheckedThenAccepted : Prop :=
  ∀ s : State, Idle s →
    let exact := (s.ksize = 0 ∧ s.keyWr = 0x0F) ∨ (s.ksize = 1 ∧ s.keyWr = 0x3F) ∨ (s.ksize = 2 ∧ s.keyWr = 0xFF)
    (s.ksize = 3 → exec .keyExpand s = .next { s with err := true, errCode := .unsupportedVariant }) ∧
    (s.ksize ≠ 3 → ¬ exact → exec .keyExpand s = .next { s with err := true, errCode := .invalidKeyLength }) ∧
    (exact → exec .keyExpand s = .next
      { s with
        busy := true, done := false, fsm := .kexp, curOp := 0x01, curRnd := 0, ctr := 0
        xKsize := s.ksize, schedValid := false })

/-- R182, R184: ENCRYPT and DECRYPT are refused with NO_SCHEDULE, or accepted. -/
def Obligations.CipherCommandsNeedASchedule : Prop :=
  ∀ p ∈ [(Instr.encrypt, 0x02#8, Fsm.enc), (.decrypt, 0x03#8, .dec)],
    ∀ s : State, Idle s →
      (s.schedValid = false → exec p.1 s = .next { s with err := true, errCode := .noSchedule }) ∧
      (s.schedValid = true → exec p.1 s = .next
        { s with busy := true, done := false, fsm := p.2.2, curOp := p.2.1, curRnd := 0, ctr := 0 })

/-- R164: ADD_ROUND_KEY is refused with NO_SCHEDULE, then with ROUND_RANGE above Nr of the schedule, never wrapped, and
else accepted. With a schedule of size 3, which R30 rules out, it stops (log 8, the model's choice). -/
def Obligations.AddRoundKeyIsCheckedThenAccepted : Prop :=
  ∀ (s : State) (rnd : Nat), Idle s → rnd ≤ 15 →
    (s.schedValid = false → exec (.addRoundKey rnd) s = .next { s with err := true, errCode := .noSchedule }) ∧
    (s.schedValid = true →
      let limit := if s.schedKsize = 0 then 10 else if s.schedKsize = 1 then 12 else 14
      (s.schedKsize ≠ 3 → limit < rnd →
        exec (.addRoundKey rnd) s = .next { s with err := true, errCode := .roundRange }) ∧
      (s.schedKsize ≠ 3 → rnd ≤ limit → exec (.addRoundKey rnd) s = .next
        { s with
          busy := true, done := false, fsm := .prim, curOp := 0x16, curRnd := BitVec.ofNat 4 rnd, ctr := 0 }) ∧
      (s.schedKsize = 3 → exec (.addRoundKey rnd) s = .fault .scheduleSizeThree))

/-- R118, R119, R120: GF_MUL is refused with OPERAND_RANGE when OPA or OPB exceeds 0xFF, SBOX and INV_SBOX when OPA
does (OPB is not read), and else accepted. -/
def Obligations.ByteOperandsAreChecked : Prop :=
  ∀ s : State, Idle s →
    (0xFF < s.opa.toNat ∨ 0xFF < s.opb.toNat →
      exec .gfMul s = .next { s with err := true, errCode := .operandRange }) ∧
    (s.opa.toNat ≤ 0xFF → s.opb.toNat ≤ 0xFF → exec .gfMul s = .next
      { s with busy := true, done := false, fsm := .prim, curOp := 0x20, curRnd := 0, ctr := 0 }) ∧
    (∀ p ∈ [(Instr.sbox, 0x21#8), (.invSbox, 0x22#8)],
      (0xFF < s.opa.toNat → exec p.1 s = .next { s with err := true, errCode := .operandRange }) ∧
      (s.opa.toNat ≤ 0xFF → exec p.1 s = .next
        { s with busy := true, done := false, fsm := .prim, curOp := p.2, curRnd := 0, ctr := 0 }))

/-- R98, R233, R189, R43, R165: the step of a CMD write whose word decodes is exec of the command on the state with the
input taken and OKAY returned; the step of an engine turn is exec of the command read back from CUR_OP and CUR_RND. That an
engine turn reads the command back through the decoder, and that exec is then its engine step, is the model's inference
(log 2); that an empty input list is the engine's turn is the model's choice (log 1). -/
def Obligations.StepRunsTheDecodedCommand : Prop :=
  (∀ (s : State) (c : Word) (i : Instr) (rest : List Event), Idle s → s.events = .write 0x008 4 c :: rest →
    decode c = .ok i → step s = exec i (answered .okay rest s)) ∧
  (∀ (s : State) (i : Instr), s.busy = true → EngineNext s →
    decode ((s.curRnd.setWidth 32 <<< 8) ||| s.curOp.setWidth 32) = .ok i →
    step s = exec i { s with events := s.events.tail })

/-- R232: a CMD write while BUSY = 0 and ERR = 1 is refused without decoding: only ERR_OVF is set. -/
def Obligations.PendingErrorRefusesEveryCommand : Prop :=
  ∀ (s : State) (c : Word) (rest : List Event), s.busy = false → s.err = true →
    s.events = .write 0x008 4 c :: rest → step s = .next { answered .okay rest s with errOvf := true }

/-! ## The engine steps of the single-operation commands -/

/-- R210, R211, R212: the engine steps of NOP, ZEROIZE and CLEAR_KEY, and all they leave unchanged. -/
def Obligations.ControlCommandSteps : Prop :=
  ∀ s : State, Running .prim s →
    exec .nop s = .next { s with busy := false, done := true, fsm := .idle } ∧
    exec .zeroize s = .next
      { s with
        block := Block.zero, key := Vector.replicate 8 0, keyWr := 0, opa := 0, opb := 0, result := 0
        sched := Vector.replicate 60 0, schedValid := false, schedKsize := 0
        busy := false, done := true, fsm := .idle } ∧
    exec .clearKey s = .next
      { s with key := Vector.replicate 8 0, keyWr := 0, busy := false, done := true, fsm := .idle }

/-- R150, R151, R158, R159: SUB_BYTES and INV_SUB_BYTES replace each byte by its table entry; nothing else changes but
BUSY, DONE and FSM. -/
def Obligations.SubBytesSteps : Prop :=
  ∀ s : State, Running .prim s →
    (∃ b, exec .subBytes s = .next { s with block := b, busy := false, done := true, fsm := .idle } ∧
      ∀ r c, b.get r c = Machine.sbox (s.block.get r c)) ∧
    (∃ b, exec .invSubBytes s = .next { s with block := b, busy := false, done := true, fsm := .idle } ∧
      ∀ r c, b.get r c = Machine.invSbox (s.block.get r c))

/-- R152, R153, R160, R161: SHIFT_ROWS rotates row r left by r places, INV_SHIFT_ROWS right by r; nothing else changes
but BUSY, DONE and FSM. -/
def Obligations.ShiftRowsSteps : Prop :=
  ∀ s : State, Running .prim s →
    (∃ b, exec .shiftRows s = .next { s with block := b, busy := false, done := true, fsm := .idle } ∧
      ∀ r c c' : Fin 4, c'.val = (c.val + r.val) % 4 → b.get r c = s.block.get r c') ∧
    (∃ b, exec .invShiftRows s = .next { s with block := b, busy := false, done := true, fsm := .idle } ∧
      ∀ r c c' : Fin 4, c'.val = (c.val + 4 - r.val) % 4 → b.get r c = s.block.get r c')

/-- R154, R162: MIX_COLUMNS multiplies each column by M, all four bytes from the column's original bytes; nothing else
changes but BUSY, DONE and FSM. -/
def Obligations.MixColumnsStep : Prop :=
  ∀ s : State, Running .prim s →
    ∃ b, exec .mixColumns s = .next { s with block := b, busy := false, done := true, fsm := .idle } ∧
      ∀ c, let a := fun r => s.block.get r c
        b.get 0 c = gmul 2 (a 0) ^^^ gmul 3 (a 1) ^^^ a 2 ^^^ a 3 ∧
        b.get 1 c = a 0 ^^^ gmul 2 (a 1) ^^^ gmul 3 (a 2) ^^^ a 3 ∧
        b.get 2 c = a 0 ^^^ a 1 ^^^ gmul 2 (a 2) ^^^ gmul 3 (a 3) ∧
        b.get 3 c = gmul 3 (a 0) ^^^ a 1 ^^^ a 2 ^^^ gmul 2 (a 3)

/-- R155, R163: INV_MIX_COLUMNS multiplies each column by IM; nothing else changes but BUSY, DONE and FSM. -/
def Obligations.InvMixColumnsStep : Prop :=
  ∀ s : State, Running .prim s →
    ∃ b, exec .invMixColumns s = .next { s with block := b, busy := false, done := true, fsm := .idle } ∧
      ∀ c, let a := fun r => s.block.get r c
        b.get 0 c = gmul 0x0E (a 0) ^^^ gmul 0x0B (a 1) ^^^ gmul 0x0D (a 2) ^^^ gmul 0x09 (a 3) ∧
        b.get 1 c = gmul 0x09 (a 0) ^^^ gmul 0x0E (a 1) ^^^ gmul 0x0B (a 2) ^^^ gmul 0x0D (a 3) ∧
        b.get 2 c = gmul 0x0D (a 0) ^^^ gmul 0x09 (a 1) ^^^ gmul 0x0E (a 2) ^^^ gmul 0x0B (a 3) ∧
        b.get 3 c = gmul 0x0B (a 0) ^^^ gmul 0x0D (a 1) ^^^ gmul 0x09 (a 2) ^^^ gmul 0x0E (a 3)

/-- R156, R164: ADD_ROUND_KEY XORs byte r of `W[4·rnd + c]` into `S[r][c]`, for every round index a schedule can have
(0..14); nothing else changes but BUSY, DONE and FSM. -/
def Obligations.AddRoundKeyStep : Prop :=
  ∀ (s : State) (rnd : Nat), Running .prim s → rnd ≤ 14 →
    ∃ b, exec (.addRoundKey rnd) s = .next { s with block := b, busy := false, done := true, fsm := .idle } ∧
      ∀ (r c : Fin 4) (i : Fin 60), i.val = 4 * rnd + c.val →
        b.get r c = s.block.get r c ^^^ byteOf s.sched[i] r

/-- R118, R119, R120, R138, R139: the commands that write RESULT, from OPA (and OPB for GF_MUL), and all they leave
unchanged. -/
def Obligations.ResultCommandSteps : Prop :=
  ∀ s : State, Running .prim s →
    let a : Byte := s.opa.setWidth 8
    let b : Byte := s.opb.setWidth 8
    (exec .gfMul s = .next
      { s with result := (gmul a b).setWidth 32, busy := false, done := true, fsm := .idle }) ∧
    (exec .sbox s = .next
      { s with result := (Machine.sbox a).setWidth 32, busy := false, done := true, fsm := .idle }) ∧
    (exec .invSbox s = .next
      { s with result := (Machine.invSbox a).setWidth 32, busy := false, done := true, fsm := .idle }) ∧
    (exec .subWord s = .next
      { s with result := Machine.subWord s.opa, busy := false, done := true, fsm := .idle }) ∧
    (exec .rotWord s = .next
      { s with result := Machine.rotWord s.opa, busy := false, done := true, fsm := .idle })

/-! ## Field, tables, word functions -/

/-- R130, R131: RotWord and SubWord on the four bytes of a word, byte 0 the most significant. -/
def Obligations.WordFunctionsOnBytes : Prop :=
  ∀ a b c d : Byte,
    Machine.rotWord (wordOf a b c d) = wordOf b c d a ∧
    Machine.subWord (wordOf a b c d) =
      wordOf (Machine.sbox a) (Machine.sbox b) (Machine.sbox c) (Machine.sbox d)

/-- R111: the field laws of gmul. -/
def Obligations.FieldLaws : Prop :=
  (∀ x y, gmul x y = gmul y x) ∧ (∀ x y z, gmul (gmul x y) z = gmul x (gmul y z)) ∧
  (∀ x y z, gmul x (y ^^^ z) = gmul x y ^^^ gmul x z) ∧ (∀ x, gmul 0x01 x = x) ∧
  (∀ x, x ≠ 0 → ∃ y, gmul x y = 0x01)

/-- R115: the S-box is the affine map of the multiplicative inverse, 0 for 0. -/
def Obligations.SboxGenerationRule : Prop :=
  ∀ b : Byte, ∃ a : Byte, (if b = 0 then a = 0 else gmul a b = 0x01) ∧ Machine.sbox b = sboxAffine a

/-- R114: the two tables are inverse to each other. -/
def Obligations.TablesAreInverse : Prop :=
  ∀ b : Byte, Machine.invSbox (Machine.sbox b) = b ∧ Machine.sbox (Machine.invSbox b) = b

/-- R116: the round constants, and that each is the double of the one before. -/
def Obligations.RoundConstants : Prop :=
  rcon 1 = 0x01 ∧ rcon 8 = 0x80 ∧ rcon 9 = 0x1B ∧ rcon 10 = 0x36 ∧
  ∀ i, 2 ≤ i → i ≤ 10 → rcon i = gmul (rcon (i - 1)) 0x02

/-- R166: the inverse laws of the transforms, and that the byte map and the row shift commute. -/
def Obligations.TransformInverseLaws : Prop :=
  ∀ b : Block,
    invSubBytesF (subBytesF b) = b ∧ subBytesF (invSubBytesF b) = b ∧
    invShiftRowsF (shiftRowsF b) = b ∧ invMixColumnsF (mixColumnsF b) = b ∧
    (∀ w rnd, addRoundKeyF w rnd (addRoundKeyF w rnd b) = b) ∧
    subBytesF (shiftRowsF b) = shiftRowsF (subBytesF b) ∧
    invSubBytesF (invShiftRowsF b) = invShiftRowsF (invSubBytesF b)

/-! ## The multi-step commands -/

/-- R135: the load step of KEY_EXPAND. -/
def Obligations.KeyExpandLoadStep : Prop :=
  ∀ (s : State) (v : Variant), Running .kexp s → s.ctr = 0 → variantOf s.xKsize = some v →
    ∃ w, exec .keyExpand s = .next { s with sched := w, ctr := BitVec.ofNat 6 v.nk } ∧
      (∀ (i : Fin 60) (k : Fin 8), k.val = i.val → i.val < v.nk → w[i] = s.key[k]) ∧
      (∀ i : Fin 60, 4 * (v.nr + 1) ≤ i.val → w[i] = 0) ∧
      (∀ i : Fin 60, v.nk ≤ i.val → i.val < 4 * (v.nr + 1) → w[i] = s.sched[i])

/-- R136, R137: a word step of KEY_EXPAND writes `W[i]` for i = CTR and no other word; the last one completes the
command. -/
def Obligations.KeyExpandWordStep : Prop :=
  ∀ (s : State) (v : Variant) (i : Nat), Running .kexp s → variantOf s.xKsize = some v → s.ctr.toNat = i →
    v.nk ≤ i → i ≤ 4 * (v.nr + 1) - 1 →
    ∃ w, exec .keyExpand s = .next
        (if i = 4 * (v.nr + 1) - 1 then
          { s with
            sched := w, schedValid := true, schedKsize := s.xKsize, busy := false, done := true, fsm := .idle }
        else { s with sched := w, ctr := BitVec.ofNat 6 (i + 1) }) ∧
      (let temp := schedWord s.sched (i - 1)
       schedWord w i = schedWord s.sched (i - v.nk) ^^^
        (if i % v.nk = 0 then
          Machine.subWord (Machine.rotWord temp) ^^^ ((rcon (i / v.nk)).setWidth 32 <<< 24)
        else if 6 < v.nk ∧ i % v.nk = 4 then Machine.subWord temp
        else temp)) ∧
      (∀ j : Fin 60, j.val ≠ i → w[j] = s.sched[j])

/-- R183: the engine steps of ENCRYPT, and all they leave unchanged. -/
def Obligations.EncryptSteps : Prop :=
  ∀ (s : State) (v : Variant), Running .enc s → variantOf s.schedKsize = some v →
    (s.ctr = 0 → exec .encrypt s = .next { s with block := addRoundKeyF s.sched 0 s.block, ctr := 1 }) ∧
    (1 ≤ s.ctr.toNat → s.ctr.toNat ≤ v.nr - 1 → exec .encrypt s = .next
      { s with
        block := addRoundKeyF s.sched s.ctr.toNat (mixColumnsF (shiftRowsF (subBytesF s.block)))
        ctr := BitVec.ofNat 6 (s.ctr.toNat + 1) }) ∧
    (s.ctr.toNat = v.nr → exec .encrypt s = .next
      { s with
        block := addRoundKeyF s.sched v.nr (shiftRowsF (subBytesF s.block))
        busy := false, done := true, fsm := .idle })

/-- R185: the engine steps of DECRYPT, and all they leave unchanged. -/
def Obligations.DecryptSteps : Prop :=
  ∀ (s : State) (v : Variant), Running .dec s → variantOf s.schedKsize = some v →
    (s.ctr = 0 → exec .decrypt s = .next { s with block := addRoundKeyF s.sched v.nr s.block, ctr := 1 }) ∧
    (1 ≤ s.ctr.toNat → s.ctr.toNat ≤ v.nr - 1 → exec .decrypt s = .next
      { s with
        block := invMixColumnsF
          (addRoundKeyF s.sched (v.nr - s.ctr.toNat) (invSubBytesF (invShiftRowsF s.block)))
        ctr := BitVec.ofNat 6 (s.ctr.toNat + 1) }) ∧
    (s.ctr.toNat = v.nr → exec .decrypt s = .next
      { s with
        block := addRoundKeyF s.sched 0 (invSubBytesF (invShiftRowsF s.block))
        busy := false, done := true, fsm := .idle })

/-- R182, R186: from the CMD write of ENCRYPT on an idle engine with a schedule, the accepting step and Nr + 1 engine
steps leave `Cipher(S0, SCHED_KSIZE)` in S, DONE set, and every other element as it was. The engine steps are those of an
empty input list (log 1, the model's choice). -/
def Obligations.EncryptRunGivesCipher : Prop :=
  ∀ (s : State) (v : Variant), Idle s → s.schedValid = true → variantOf s.schedKsize = some v →
    s.events = [.write 0x008 4 0x00000002] →
    runSteps (1 + (v.nr + 1)) s = .next
      { answered .okay [] s with
        block := cipher s.sched v s.block, done := true, fsm := .idle
        curOp := 0x02, curRnd := 0, ctr := BitVec.ofNat 6 v.nr }

/-- R184, R186: the same for DECRYPT and `InvCipher(S0, SCHED_KSIZE)`, for all three key sizes (log 1 as there). -/
def Obligations.DecryptRunGivesInvCipher : Prop :=
  ∀ (s : State) (v : Variant), Idle s → s.schedValid = true → variantOf s.schedKsize = some v →
    s.events = [.write 0x008 4 0x00000003] →
    runSteps (1 + (v.nr + 1)) s = .next
      { answered .okay [] s with
        block := invCipher s.sched v s.block, done := true, fsm := .idle
        curOp := 0x03, curRnd := 0, ctr := BitVec.ofNat 6 v.nr }

/-- R133, R136, R137, R141: from the CMD write of KEY_EXPAND with exactly the Nk key words written, the accepting step
and `1 + 4(Nr+1) - Nk` engine steps leave `ExpandKey(K, KSIZE)` in W, zero beyond it, and every other element but the
schedule's own and the sequencing state as it was. The engine steps are those of an empty input list (log 1, the model's
choice). -/
def Obligations.KeyExpandRunGivesExpandKey : Prop :=
  ∀ (s : State) (v : Variant), Idle s → variantOf s.ksize = some v → s.keyWr = v.keyMask →
    s.events = [.write 0x008 4 0x00000001] →
    ∃ w, runSteps (1 + (1 + 4 * (v.nr + 1) - v.nk)) s = .next
        { answered .okay [] s with
          sched := w, schedValid := true, schedKsize := s.ksize, xKsize := s.ksize
          done := true, fsm := .idle, curOp := 0x01, curRnd := 0, ctr := BitVec.ofNat 6 (v.words - 1) } ∧
      (∀ i : Fin 60, i.val < 4 * (v.nr + 1) → (expandKey s.key v)[i.val]? = some w[i]) ∧
      (expandKey s.key v).length = 4 * (v.nr + 1) ∧
      (∀ i : Fin 60, 4 * (v.nr + 1) ≤ i.val → w[i] = 0)

/-- R187: for every schedule, every key size and every block, decryption undoes encryption and the reverse. -/
def Obligations.CipherRoundTrip : Prop :=
  ∀ (w : Vector Word 60) (v : Variant) (b : Block),
    invCipher w v (cipher w v b) = b ∧ cipher w v (invCipher w v b) = b

/-- R196, R197, R198: the host's multi-block contract: the padded length is `16·max(1, ceil(L/16))`, encryption keeps it,
decryption gives back the message followed by the padding zeros, and a length that is no multiple of 16 is refused. That the
contract is pure functions, each block by Cipher or InvCipher, is the model's inference (log 18). -/
def Obligations.MultiBlockRoundTrip : Prop :=
  ∀ (w : Vector Word 60) (v : Variant) (m : List Byte),
    (padMessage m).length = 16 * max 1 ((m.length + 15) / 16) ∧
    (encryptMessage w v m).length = (padMessage m).length ∧
    decryptMessage w v (encryptMessage w v m) =
      some (m ++ List.replicate ((padMessage m).length - m.length) 0x00) ∧
    (m.length % 16 ≠ 0 → decryptMessage w v m = none)

/-! ## Invariants and progress -/

/-- The invariant (R48 and what it rests on) and the schedule invariant (R30, R39) hold after reset. -/
def Obligations.ResetMeetsTheInvariants : Prop := Inv State.reset ∧ ScheduleInv State.reset

/-- R48: every step keeps the invariant: BUSY = 1 iff FSM ≠ IDLE, SCHED_VALID = 0 while FSM = KEXP, SCHED_KSIZE never 3,
the error record consistent, and the command in progress in the range of its rules. -/
def Obligations.StepKeepsTheInvariant : Prop :=
  ∀ s t : State, Inv s → step s = .next t → Inv t

/-- R189, R234: from every state that meets the invariant the machine goes on: no input and no engine step stops it. -/
def Obligations.StepAlwaysGoesOn : Prop := ∀ s : State, Inv s → ∃ t, step s = .next t

/-- R30, R39, R140: every step keeps the schedule invariant: SCHED_VALID = 1 means W holds a complete schedule for
SCHED_KSIZE, zero beyond it. -/
def Obligations.StepKeepsTheSchedule : Prop :=
  ∀ s t : State, Inv s → ScheduleInv s → step s = .next t → ScheduleInv t

/-- R189, R141, R186: with no input pending, the command in progress completes after exactly the engine steps its rules
count, at most 53, and not before. That an empty input list gives the engine every turn is the model's choice (log 1). -/
def Obligations.EveryCommandCompletes : Prop :=
  ∀ s : State, Inv s → s.busy = true → s.events = [] →
    1 ≤ stepsLeft s ∧ stepsLeft s ≤ 53 ∧
    (∀ k, k < stepsLeft s → ∃ u, runSteps k s = .next u ∧ u.busy = true) ∧
    ∃ t, runSteps (stepsLeft s) s = .next t ∧ t.busy = false ∧ t.done = true ∧ t.fsm = .idle

/-- R190: while BUSY = 1 no host access but a soft reset changes the data, the key, the schedule or the sequencing
state; the step goes on. -/
def Obligations.BusyCommandIsIsolated : Prop :=
  ∀ (s : State) (e : Event) (rest : List Event), s.busy = true → s.events = e :: rest → e ≠ .engine →
    Undisturbing e →
    ∃ t, step s = .next t ∧
      t.block = s.block ∧ t.key = s.key ∧ t.keyWr = s.keyWr ∧ t.sched = s.sched ∧ t.opa = s.opa ∧ t.opb = s.opb ∧
      t.result = s.result ∧ t.schedValid = s.schedValid ∧ t.schedKsize = s.schedKsize ∧ t.xKsize = s.xKsize ∧
      t.ksize = s.ksize ∧ t.irqEn = s.irqEn ∧ t.busy = s.busy ∧ t.fsm = s.fsm ∧ t.curOp = s.curOp ∧
      t.curRnd = s.curRnd ∧ t.ctr = s.ctr

/-- R190, R7: the result of a command depends only on the state at its acceptance: whatever host accesses (but a soft
reset) are interleaved with its engine steps, it ends with the same data as with none. The interleaving is an input list,
and an empty list gives the engine its turns (log 1, the model's choice). -/
def Obligations.InterleavingDoesNotChangeTheResult : Prop :=
  ∀ (s : State) (es : List Event), Inv s → s.busy = true → s.events = [] → (∀ e ∈ es, Undisturbing e) →
    es.count .engine + 1 = stepsLeft s →
    ∃ t u, runSteps (es.length + 1) { s with events := es ++ [.engine] } = .next t ∧
      runSteps (stepsLeft s) s = .next u ∧
      t.busy = false ∧ u.busy = false ∧ t.done = true ∧ u.done = true ∧
      t.block = u.block ∧ t.sched = u.sched ∧ t.schedValid = u.schedValid ∧ t.schedKsize = u.schedKsize ∧
      t.key = u.key ∧ t.keyWr = u.keyWr ∧ t.opa = u.opa ∧ t.opb = u.opb ∧ t.result = u.result ∧
      t.ksize = u.ksize ∧ t.irqEn = u.irqEn

/-! ## Host accesses -/

/-- R63: the address map: each register is reached at its offset by a 4-byte access and at no other offset or size. -/
def Obligations.AddressMapIsExact : Prop :=
  (∀ r : Reg, accessed r.offset 4 = some r) ∧
  (∀ (off : BitVec 12) (size : Nat) (r : Reg), accessed off size = some r → size = 4 ∧ off = r.offset)

/-- R61, R62: an access of another size, misaligned, or at an offset outside the map returns BUSERR and changes no state
(the response is the model's record of it, log 6). -/
def Obligations.IllegalAccessesReturnBusErr : Prop :=
  ∀ (s : State) (off : BitVec 12) (size : Nat) (rest : List Event),
    (size ≠ 4 ∨ off.toNat % 4 ≠ 0 ∨ (0x04C ≤ off.toNat ∧ off.toNat ≤ 0x0FC) ∨ 0x1F0 ≤ off.toNat) →
    (s.events = .read off size :: rest → step s = .next (answered .busErr rest s)) ∧
    (∀ v, s.events = .write off size v :: rest → step s = .next (answered .busErr rest s))

/-- R64: no read changes any state, at any offset and of any size, busy or idle. The model's own fields take the response
and, for a free value, the count of draws (log 4, log 6). -/
def Obligations.ReadsHaveNoSideEffects : Prop :=
  ∀ (s : State) (off : BitVec 12) (size : Nat) (rest : List Event), s.events = .read off size :: rest →
    ∃ r n, step s = .next { answered r rest s with draws := n }

/-- R67: while BUSY = 1 a read of STATE, RESULT or RKEY returns `draw()` and OKAY. The form of `draw()`, the free constant
`Config.draw` at a counter that each draw advances, is the model's choice (log 4), as is the record of the response
(log 6). -/
def Obligations.BusyDataReadsAreFree : Prop :=
  ∀ (s : State) (r : Reg) (rest : List Event), s.busy = true → s.events = .read r.offset 4 :: rest →
    ((∃ c, r = .state c) ∨ r = .result ∨ (∃ i, r = .rkey i)) →
    step s = .next { answered (.data (Config.draw s.draws)) rest s with draws := s.draws + 1 }

/-- R33 to R39, R64, R67: what a read of each register returns: the data registers while BUSY = 0, the others at any
time. -/
def Obligations.RegisterReadsReturnTheirValues : Prop :=
  ∀ (s : State) (rest : List Event),
    (∀ r w, ((r, w) ∈ [(Reg.cmd, 0x00000000), (.id, 0x41455307), (.opa, s.opa), (.opb, s.opb)] ∨
        (∃ k, r = .key k ∧ w = 0x00000000)) →
      s.events = .read r.offset 4 :: rest → step s = .next (answered (.data w) rest s)) ∧
    (s.busy = false →
      (∀ c, s.events = .read (Reg.state c).offset 4 :: rest → step s = .next (answered
        (.data (wordOf (s.block.get 0 c) (s.block.get 1 c) (s.block.get 2 c) (s.block.get 3 c))) rest s)) ∧
      (s.events = .read 0x048 4 :: rest → step s = .next (answered (.data s.result) rest s)) ∧
      (∀ i : Fin 60, s.events = .read (Reg.rkey i).offset 4 :: rest →
        step s = .next (answered (.data s.sched[i]) rest s)))

/-- R21, R25, R26, R32: the layout of a CTRL read and of a STATUS read, reserved bits 0, busy or idle. -/
def Obligations.CtrlAndStatusReadLayout : Prop :=
  ∀ (s : State) (rest : List Event),
    (s.events = .read 0x000 4 :: rest → ∃ w, step s = .next (answered (.data w) rest s) ∧
      w.extractLsb' 0 2 = s.ksize ∧ w.getLsbD 2 = s.irqEn ∧ w.extractLsb' 3 29 = 0) ∧
    (s.events = .read 0x004 4 :: rest → ∃ w, step s = .next (answered (.data w) rest s) ∧
      w.getLsbD 0 = s.busy ∧ w.getLsbD 1 = s.done ∧ w.getLsbD 2 = s.err ∧ w.getLsbD 3 = s.errOvf ∧
      w.getLsbD 4 = s.schedValid ∧ w.extractLsb' 5 2 = s.schedKsize ∧ w.getLsbD 7 = false ∧
      w.extractLsb' 8 8 = s.keyWr ∧ w.extractLsb' 16 4 = s.errCode.bits ∧ w.extractLsb' 20 12 = 0)

/-- R26, R236: a STATUS write clears DONE by bit 1 and the error record by bit 2, busy or idle, and does nothing
else. -/
def Obligations.StatusWriteClears : Prop :=
  ∀ (s : State) (v : Word) (rest : List Event), s.events = .write 0x004 4 v :: rest →
    step s = .next
      { answered .okay rest s with
        done := s.done && !v.getLsbD 1
        err := s.err && !v.getLsbD 2
        errOvf := s.errOvf && !v.getLsbD 2
        errCode := if v.getLsbD 2 then .none else s.errCode }

/-- R21, R25: a CTRL write without SRST while BUSY = 0 sets KSIZE and IRQ_EN and nothing else. -/
def Obligations.CtrlWriteSetsItsFields : Prop :=
  ∀ (s : State) (v : Word) (rest : List Event), s.busy = false → v.getLsbD 31 = false →
    s.events = .write 0x000 4 v :: rest →
    step s = .next { answered .okay rest s with ksize := v.extractLsb' 0 2, irqEn := v.getLsbD 2 }

/-- R35, R68: a write of v to STATEc while BUSY = 0 sets `S[r][c]` to byte r of v and changes no other byte, and STATEc
then reads v. -/
def Obligations.StateWriteSetsItsColumn : Prop :=
  ∀ (s : State) (c : Fin 4) (v : Word) (rest : List Event), s.busy = false →
    s.events = .write (Reg.state c).offset 4 v :: rest →
    ∃ b, step s = .next { answered .okay rest s with block := b } ∧
      (∀ r, b.get r c = byteOf v r) ∧ (∀ r c', c' ≠ c → b.get r c' = s.block.get r c') ∧
      wordOf (b.get 0 c) (b.get 1 c) (b.get 2 c) (b.get 3 c) = v

/-- R31, R36, R37, R65: writes of KEY, OPA and OPB while BUSY = 0, and of the read-only registers at any time. -/
def Obligations.DataWritesSetTheirRegister : Prop :=
  ∀ (s : State) (v : Word) (rest : List Event),
    (s.busy = false →
      (∀ k : Fin 8, s.events = .write (Reg.key k).offset 4 v :: rest →
        ∃ ks m, step s = .next { answered .okay rest s with key := ks, keyWr := m } ∧
          (∀ j : Fin 8, ks[j] = if j = k then v else s.key[j]) ∧
          (∀ j : Fin 8, m.getLsbD j.val = if j = k then true else s.keyWr.getLsbD j.val)) ∧
      (s.events = .write 0x040 4 v :: rest → step s = .next { answered .okay rest s with opa := v }) ∧
      (s.events = .write 0x044 4 v :: rest → step s = .next { answered .okay rest s with opb := v })) ∧
    (∀ r : Reg, (r = .id ∨ r = .result ∨ ∃ i, r = .rkey i) → s.events = .write r.offset 4 v :: rest →
      step s = .next (answered .okay rest s))

/-- R66, R231: while BUSY = 1 a write to CMD, STATE, KEY, OPA, OPB, or to CTRL without SRST, is dropped, returns OKAY and
records a BUSY error, or sets ERR_OVF where an error is recorded already. -/
def Obligations.WritesWhileBusyAreDropped : Prop :=
  ∀ (s : State) (r : Reg) (v : Word) (rest : List Event), s.busy = true → s.events = .write r.offset 4 v :: rest →
    (r = .cmd ∨ (∃ c, r = .state c) ∨ (∃ k, r = .key k) ∨ r = .opa ∨ r = .opb ∨
      (r = .ctrl ∧ v.getLsbD 31 = false)) →
    (s.err = false → step s = .next { answered .okay rest s with err := true, errCode := .busy }) ∧
    (s.err = true → step s = .next { answered .okay rest s with errOvf := true })

/-! ## Rules of the whole machine -/

/-- R231, R232, R234, R237: a CMD write that is not accepted changes nothing but the error record, which keeps the first
code and notes a further error in ERR_OVF. -/
def Obligations.RefusedCommandChangesOnlyTheErrorRecord : Prop :=
  ∀ (s t : State) (c : Word) (rest : List Event), s.events = .write 0x008 4 c :: rest → step s = .next t →
    (s.busy = true ∨ t.busy = false) →
    t = { answered .okay rest s with err := true, errCode := t.errCode, errOvf := t.errOvf } ∧
    (s.err = false → t.errCode ≠ .none ∧ t.errOvf = s.errOvf) ∧
    (s.err = true → t.errCode = s.errCode ∧ t.errOvf = true)

/-- R28: DONE rises only at the completion step of a command, and falls only when a command is accepted, by a STATUS
write with bit 1, or by reset. An empty input list counts as the engine's turn (log 1, the model's choice). -/
def Obligations.DoneRisesOnlyAtCompletion : Prop :=
  ∀ s t : State, step s = .next t →
    (s.done = false → t.done = true → EngineNext s ∧ s.busy = true ∧ t.busy = false) ∧
    (s.done = true → t.done = false →
      (∃ c rest, s.events = .write 0x008 4 c :: rest ∧ s.busy = false ∧ t.busy = true) ∨
      (∃ v rest, s.events = .write 0x004 4 v :: rest ∧ v.getLsbD 1 = true) ∨ ResetNext s)

/-- R238, R239: irq is `IRQ_EN & (DONE | ERR)`, and it falls only by a STATUS write, a CTRL write that clears IRQ_EN, the
acceptance of a command while ERR = 0, or reset. -/
def Obligations.IrqFallsOnlyByItsCauses : Prop :=
  (∀ s : State, irq s = true ↔ s.irqEn = true ∧ (s.done = true ∨ s.err = true)) ∧
  ∀ s t : State, step s = .next t → irq s = true → irq t = false →
    (∃ v rest, s.events = .write 0x004 4 v :: rest ∧ t.done = false ∧ t.err = false) ∨
    (∃ v rest, s.events = .write 0x000 4 v :: rest ∧ t.irqEn = false) ∨
    (∃ c rest, s.events = .write 0x008 4 c :: rest ∧ s.err = false ∧ s.busy = false ∧ t.busy = true) ∨
    ResetNext s

/-- R140: W and SCHED_VALID change only by KEY_EXPAND (its acceptance or an engine step of it), an engine step of ZEROIZE,
or reset. An empty input list counts as the engine's turn (log 1, the model's choice), and the command of an engine step
is read back from CUR_OP and CUR_RND (log 2, the model's inference). -/
def Obligations.ScheduleChangesOnlyByItsCommands : Prop :=
  ∀ s t : State, step s = .next t → (t.sched ≠ s.sched ∨ t.schedValid ≠ s.schedValid) →
    (EngineNext s ∧ s.busy = true ∧ (latchedCommand s = some .keyExpand ∨ latchedCommand s = some .zeroize)) ∨
    (∃ rest, s.events = .write 0x008 4 0x00000001 :: rest ∧ t.fsm = .kexp) ∨ ResetNext s

/-- R36, R64: no read tells the key registers: two states that differ in K only answer every read alike. -/
def Obligations.KeyRegistersCannotBeRead : Prop :=
  ∀ (s t : State) (off : BitVec 12) (size : Nat) (rest : List Event), SameButKey s t →
    s.events = .read off size :: rest →
    ∃ s' t', step s = .next s' ∧ step t = .next t' ∧ s'.responses = t'.responses ∧ SameButKey s' t'

/-- R112, R280: how many engine steps a command takes depends on its class, its progress and the key size only, never on
data: two commands that agree on those are busy for the same number of steps. The steps are those of an empty input list
(log 1, the model's choice). -/
def Obligations.StepCountDoesNotDependOnData : Prop :=
  ∀ s t : State, Inv s → Inv t → s.busy = true → s.events = [] → t.events = [] → s.fsm = t.fsm → s.ctr = t.ctr →
    s.schedKsize = t.schedKsize → s.xKsize = t.xKsize →
    ∀ k, (∃ u, runSteps k s = .next u ∧ u.busy = true) ↔ (∃ u, runSteps k t = .next u ∧ u.busy = true)
end

