-- ==== Sys2Proof/Laws/State.lean ====
section
/-! SUPPORT. One lemma per field per named update of State, true by rfl, so that no later proof unfolds an update. -/

namespace Sys2Proof.Machine

section respond

variable (r : Response) (s : State)

@[simp] theorem respond_ksize : (respond r s).ksize = s.ksize := rfl
@[simp] theorem respond_irqEn : (respond r s).irqEn = s.irqEn := rfl
@[simp] theorem respond_busy : (respond r s).busy = s.busy := rfl
@[simp] theorem respond_done : (respond r s).done = s.done := rfl
@[simp] theorem respond_err : (respond r s).err = s.err := rfl
@[simp] theorem respond_errOvf : (respond r s).errOvf = s.errOvf := rfl
@[simp] theorem respond_errCode : (respond r s).errCode = s.errCode := rfl
@[simp] theorem respond_schedValid : (respond r s).schedValid = s.schedValid := rfl
@[simp] theorem respond_schedKsize : (respond r s).schedKsize = s.schedKsize := rfl
@[simp] theorem respond_keyWr : (respond r s).keyWr = s.keyWr := rfl
@[simp] theorem respond_block : (respond r s).block = s.block := rfl
@[simp] theorem respond_key : (respond r s).key = s.key := rfl
@[simp] theorem respond_opa : (respond r s).opa = s.opa := rfl
@[simp] theorem respond_opb : (respond r s).opb = s.opb := rfl
@[simp] theorem respond_result : (respond r s).result = s.result := rfl
@[simp] theorem respond_sched : (respond r s).sched = s.sched := rfl
@[simp] theorem respond_fsm : (respond r s).fsm = s.fsm := rfl
@[simp] theorem respond_curOp : (respond r s).curOp = s.curOp := rfl
@[simp] theorem respond_curRnd : (respond r s).curRnd = s.curRnd := rfl
@[simp] theorem respond_ctr : (respond r s).ctr = s.ctr := rfl
@[simp] theorem respond_xKsize : (respond r s).xKsize = s.xKsize := rfl
@[simp] theorem respond_events : (respond r s).events = s.events := rfl
@[simp] theorem respond_responses : (respond r s).responses = r :: s.responses := rfl
@[simp] theorem respond_draws : (respond r s).draws = s.draws := rfl

end respond

section respondDraw

variable (s : State)

@[simp] theorem respondDraw_ksize : (respondDraw s).ksize = s.ksize := rfl
@[simp] theorem respondDraw_irqEn : (respondDraw s).irqEn = s.irqEn := rfl
@[simp] theorem respondDraw_busy : (respondDraw s).busy = s.busy := rfl
@[simp] theorem respondDraw_done : (respondDraw s).done = s.done := rfl
@[simp] theorem respondDraw_err : (respondDraw s).err = s.err := rfl
@[simp] theorem respondDraw_errOvf : (respondDraw s).errOvf = s.errOvf := rfl
@[simp] theorem respondDraw_errCode : (respondDraw s).errCode = s.errCode := rfl
@[simp] theorem respondDraw_schedValid : (respondDraw s).schedValid = s.schedValid := rfl
@[simp] theorem respondDraw_schedKsize : (respondDraw s).schedKsize = s.schedKsize := rfl
@[simp] theorem respondDraw_keyWr : (respondDraw s).keyWr = s.keyWr := rfl
@[simp] theorem respondDraw_block : (respondDraw s).block = s.block := rfl
@[simp] theorem respondDraw_key : (respondDraw s).key = s.key := rfl
@[simp] theorem respondDraw_opa : (respondDraw s).opa = s.opa := rfl
@[simp] theorem respondDraw_opb : (respondDraw s).opb = s.opb := rfl
@[simp] theorem respondDraw_result : (respondDraw s).result = s.result := rfl
@[simp] theorem respondDraw_sched : (respondDraw s).sched = s.sched := rfl
@[simp] theorem respondDraw_fsm : (respondDraw s).fsm = s.fsm := rfl
@[simp] theorem respondDraw_curOp : (respondDraw s).curOp = s.curOp := rfl
@[simp] theorem respondDraw_curRnd : (respondDraw s).curRnd = s.curRnd := rfl
@[simp] theorem respondDraw_ctr : (respondDraw s).ctr = s.ctr := rfl
@[simp] theorem respondDraw_xKsize : (respondDraw s).xKsize = s.xKsize := rfl
@[simp] theorem respondDraw_events : (respondDraw s).events = s.events := rfl
@[simp] theorem respondDraw_responses : (respondDraw s).responses = .data (Config.draw s.draws) :: s.responses := rfl
@[simp] theorem respondDraw_draws : (respondDraw s).draws = s.draws + 1 := rfl

end respondDraw

section refusePending

variable (s : State)

@[simp] theorem refusePending_ksize : (refusePending s).ksize = s.ksize := rfl
@[simp] theorem refusePending_irqEn : (refusePending s).irqEn = s.irqEn := rfl
@[simp] theorem refusePending_busy : (refusePending s).busy = s.busy := rfl
@[simp] theorem refusePending_done : (refusePending s).done = s.done := rfl
@[simp] theorem refusePending_err : (refusePending s).err = s.err := rfl
@[simp] theorem refusePending_errOvf : (refusePending s).errOvf = true := rfl
@[simp] theorem refusePending_errCode : (refusePending s).errCode = s.errCode := rfl
@[simp] theorem refusePending_schedValid : (refusePending s).schedValid = s.schedValid := rfl
@[simp] theorem refusePending_schedKsize : (refusePending s).schedKsize = s.schedKsize := rfl
@[simp] theorem refusePending_keyWr : (refusePending s).keyWr = s.keyWr := rfl
@[simp] theorem refusePending_block : (refusePending s).block = s.block := rfl
@[simp] theorem refusePending_key : (refusePending s).key = s.key := rfl
@[simp] theorem refusePending_opa : (refusePending s).opa = s.opa := rfl
@[simp] theorem refusePending_opb : (refusePending s).opb = s.opb := rfl
@[simp] theorem refusePending_result : (refusePending s).result = s.result := rfl
@[simp] theorem refusePending_sched : (refusePending s).sched = s.sched := rfl
@[simp] theorem refusePending_fsm : (refusePending s).fsm = s.fsm := rfl
@[simp] theorem refusePending_curOp : (refusePending s).curOp = s.curOp := rfl
@[simp] theorem refusePending_curRnd : (refusePending s).curRnd = s.curRnd := rfl
@[simp] theorem refusePending_ctr : (refusePending s).ctr = s.ctr := rfl
@[simp] theorem refusePending_xKsize : (refusePending s).xKsize = s.xKsize := rfl
@[simp] theorem refusePending_events : (refusePending s).events = s.events := rfl
@[simp] theorem refusePending_responses : (refusePending s).responses = s.responses := rfl
@[simp] theorem refusePending_draws : (refusePending s).draws = s.draws := rfl

end refusePending

section ackError

variable (s : State)

@[simp] theorem ackError_ksize : (ackError s).ksize = s.ksize := rfl
@[simp] theorem ackError_irqEn : (ackError s).irqEn = s.irqEn := rfl
@[simp] theorem ackError_busy : (ackError s).busy = s.busy := rfl
@[simp] theorem ackError_done : (ackError s).done = s.done := rfl
@[simp] theorem ackError_err : (ackError s).err = false := rfl
@[simp] theorem ackError_errOvf : (ackError s).errOvf = false := rfl
@[simp] theorem ackError_errCode : (ackError s).errCode = .none := rfl
@[simp] theorem ackError_schedValid : (ackError s).schedValid = s.schedValid := rfl
@[simp] theorem ackError_schedKsize : (ackError s).schedKsize = s.schedKsize := rfl
@[simp] theorem ackError_keyWr : (ackError s).keyWr = s.keyWr := rfl
@[simp] theorem ackError_block : (ackError s).block = s.block := rfl
@[simp] theorem ackError_key : (ackError s).key = s.key := rfl
@[simp] theorem ackError_opa : (ackError s).opa = s.opa := rfl
@[simp] theorem ackError_opb : (ackError s).opb = s.opb := rfl
@[simp] theorem ackError_result : (ackError s).result = s.result := rfl
@[simp] theorem ackError_sched : (ackError s).sched = s.sched := rfl
@[simp] theorem ackError_fsm : (ackError s).fsm = s.fsm := rfl
@[simp] theorem ackError_curOp : (ackError s).curOp = s.curOp := rfl
@[simp] theorem ackError_curRnd : (ackError s).curRnd = s.curRnd := rfl
@[simp] theorem ackError_ctr : (ackError s).ctr = s.ctr := rfl
@[simp] theorem ackError_xKsize : (ackError s).xKsize = s.xKsize := rfl
@[simp] theorem ackError_events : (ackError s).events = s.events := rfl
@[simp] theorem ackError_responses : (ackError s).responses = s.responses := rfl
@[simp] theorem ackError_draws : (ackError s).draws = s.draws := rfl

end ackError

section toReset

variable (s : State)

@[simp] theorem toReset_ksize : (toReset s).ksize = 0 := rfl
@[simp] theorem toReset_irqEn : (toReset s).irqEn = false := rfl
@[simp] theorem toReset_busy : (toReset s).busy = false := rfl
@[simp] theorem toReset_done : (toReset s).done = false := rfl
@[simp] theorem toReset_err : (toReset s).err = false := rfl
@[simp] theorem toReset_errOvf : (toReset s).errOvf = false := rfl
@[simp] theorem toReset_errCode : (toReset s).errCode = .none := rfl
@[simp] theorem toReset_schedValid : (toReset s).schedValid = false := rfl
@[simp] theorem toReset_schedKsize : (toReset s).schedKsize = 0 := rfl
@[simp] theorem toReset_keyWr : (toReset s).keyWr = 0 := rfl
@[simp] theorem toReset_block : (toReset s).block = Block.zero := rfl
@[simp] theorem toReset_key : (toReset s).key = Vector.replicate 8 0 := rfl
@[simp] theorem toReset_opa : (toReset s).opa = 0 := rfl
@[simp] theorem toReset_opb : (toReset s).opb = 0 := rfl
@[simp] theorem toReset_result : (toReset s).result = 0 := rfl
@[simp] theorem toReset_sched : (toReset s).sched = Vector.replicate 60 0 := rfl
@[simp] theorem toReset_fsm : (toReset s).fsm = .idle := rfl
@[simp] theorem toReset_curOp : (toReset s).curOp = 0 := rfl
@[simp] theorem toReset_curRnd : (toReset s).curRnd = 0 := rfl
@[simp] theorem toReset_ctr : (toReset s).ctr = 0 := rfl
@[simp] theorem toReset_xKsize : (toReset s).xKsize = 0 := rfl
@[simp] theorem toReset_events : (toReset s).events = s.events := rfl
@[simp] theorem toReset_responses : (toReset s).responses = s.responses := rfl
@[simp] theorem toReset_draws : (toReset s).draws = s.draws := rfl

end toReset

section accept

variable (op : BitVec 8) (rnd : BitVec 4) (cls : Fsm) (s : State)

@[simp] theorem accept_ksize : (accept op rnd cls s).ksize = s.ksize := rfl
@[simp] theorem accept_irqEn : (accept op rnd cls s).irqEn = s.irqEn := rfl
@[simp] theorem accept_busy : (accept op rnd cls s).busy = true := rfl
@[simp] theorem accept_done : (accept op rnd cls s).done = false := rfl
@[simp] theorem accept_err : (accept op rnd cls s).err = s.err := rfl
@[simp] theorem accept_errOvf : (accept op rnd cls s).errOvf = s.errOvf := rfl
@[simp] theorem accept_errCode : (accept op rnd cls s).errCode = s.errCode := rfl
@[simp] theorem accept_schedValid : (accept op rnd cls s).schedValid = s.schedValid := rfl
@[simp] theorem accept_schedKsize : (accept op rnd cls s).schedKsize = s.schedKsize := rfl
@[simp] theorem accept_keyWr : (accept op rnd cls s).keyWr = s.keyWr := rfl
@[simp] theorem accept_block : (accept op rnd cls s).block = s.block := rfl
@[simp] theorem accept_key : (accept op rnd cls s).key = s.key := rfl
@[simp] theorem accept_opa : (accept op rnd cls s).opa = s.opa := rfl
@[simp] theorem accept_opb : (accept op rnd cls s).opb = s.opb := rfl
@[simp] theorem accept_result : (accept op rnd cls s).result = s.result := rfl
@[simp] theorem accept_sched : (accept op rnd cls s).sched = s.sched := rfl
@[simp] theorem accept_fsm : (accept op rnd cls s).fsm = cls := rfl
@[simp] theorem accept_curOp : (accept op rnd cls s).curOp = op := rfl
@[simp] theorem accept_curRnd : (accept op rnd cls s).curRnd = rnd := rfl
@[simp] theorem accept_ctr : (accept op rnd cls s).ctr = 0 := rfl
@[simp] theorem accept_xKsize : (accept op rnd cls s).xKsize = s.xKsize := rfl
@[simp] theorem accept_events : (accept op rnd cls s).events = s.events := rfl
@[simp] theorem accept_responses : (accept op rnd cls s).responses = s.responses := rfl
@[simp] theorem accept_draws : (accept op rnd cls s).draws = s.draws := rfl

end accept

section complete

variable (s : State)

@[simp] theorem complete_ksize : (complete s).ksize = s.ksize := rfl
@[simp] theorem complete_irqEn : (complete s).irqEn = s.irqEn := rfl
@[simp] theorem complete_busy : (complete s).busy = false := rfl
@[simp] theorem complete_done : (complete s).done = true := rfl
@[simp] theorem complete_err : (complete s).err = s.err := rfl
@[simp] theorem complete_errOvf : (complete s).errOvf = s.errOvf := rfl
@[simp] theorem complete_errCode : (complete s).errCode = s.errCode := rfl
@[simp] theorem complete_schedValid : (complete s).schedValid = s.schedValid := rfl
@[simp] theorem complete_schedKsize : (complete s).schedKsize = s.schedKsize := rfl
@[simp] theorem complete_keyWr : (complete s).keyWr = s.keyWr := rfl
@[simp] theorem complete_block : (complete s).block = s.block := rfl
@[simp] theorem complete_key : (complete s).key = s.key := rfl
@[simp] theorem complete_opa : (complete s).opa = s.opa := rfl
@[simp] theorem complete_opb : (complete s).opb = s.opb := rfl
@[simp] theorem complete_result : (complete s).result = s.result := rfl
@[simp] theorem complete_sched : (complete s).sched = s.sched := rfl
@[simp] theorem complete_fsm : (complete s).fsm = .idle := rfl
@[simp] theorem complete_curOp : (complete s).curOp = s.curOp := rfl
@[simp] theorem complete_curRnd : (complete s).curRnd = s.curRnd := rfl
@[simp] theorem complete_ctr : (complete s).ctr = s.ctr := rfl
@[simp] theorem complete_xKsize : (complete s).xKsize = s.xKsize := rfl
@[simp] theorem complete_events : (complete s).events = s.events := rfl
@[simp] theorem complete_responses : (complete s).responses = s.responses := rfl
@[simp] theorem complete_draws : (complete s).draws = s.draws := rfl

end complete

section acceptKeyExpand

variable (s : State)

@[simp] theorem acceptKeyExpand_ksize : (acceptKeyExpand s).ksize = s.ksize := rfl
@[simp] theorem acceptKeyExpand_irqEn : (acceptKeyExpand s).irqEn = s.irqEn := rfl
@[simp] theorem acceptKeyExpand_busy : (acceptKeyExpand s).busy = true := rfl
@[simp] theorem acceptKeyExpand_done : (acceptKeyExpand s).done = false := rfl
@[simp] theorem acceptKeyExpand_err : (acceptKeyExpand s).err = s.err := rfl
@[simp] theorem acceptKeyExpand_errOvf : (acceptKeyExpand s).errOvf = s.errOvf := rfl
@[simp] theorem acceptKeyExpand_errCode : (acceptKeyExpand s).errCode = s.errCode := rfl
@[simp] theorem acceptKeyExpand_schedValid : (acceptKeyExpand s).schedValid = false := rfl
@[simp] theorem acceptKeyExpand_schedKsize : (acceptKeyExpand s).schedKsize = s.schedKsize := rfl
@[simp] theorem acceptKeyExpand_keyWr : (acceptKeyExpand s).keyWr = s.keyWr := rfl
@[simp] theorem acceptKeyExpand_block : (acceptKeyExpand s).block = s.block := rfl
@[simp] theorem acceptKeyExpand_key : (acceptKeyExpand s).key = s.key := rfl
@[simp] theorem acceptKeyExpand_opa : (acceptKeyExpand s).opa = s.opa := rfl
@[simp] theorem acceptKeyExpand_opb : (acceptKeyExpand s).opb = s.opb := rfl
@[simp] theorem acceptKeyExpand_result : (acceptKeyExpand s).result = s.result := rfl
@[simp] theorem acceptKeyExpand_sched : (acceptKeyExpand s).sched = s.sched := rfl
@[simp] theorem acceptKeyExpand_fsm : (acceptKeyExpand s).fsm = .kexp := rfl
@[simp] theorem acceptKeyExpand_curOp : (acceptKeyExpand s).curOp = 0x01 := rfl
@[simp] theorem acceptKeyExpand_curRnd : (acceptKeyExpand s).curRnd = 0 := rfl
@[simp] theorem acceptKeyExpand_ctr : (acceptKeyExpand s).ctr = 0 := rfl
@[simp] theorem acceptKeyExpand_xKsize : (acceptKeyExpand s).xKsize = s.ksize := rfl
@[simp] theorem acceptKeyExpand_events : (acceptKeyExpand s).events = s.events := rfl
@[simp] theorem acceptKeyExpand_responses : (acceptKeyExpand s).responses = s.responses := rfl
@[simp] theorem acceptKeyExpand_draws : (acceptKeyExpand s).draws = s.draws := rfl

end acceptKeyExpand

section completeKeyExpand

variable (s : State)

@[simp] theorem completeKeyExpand_ksize : (completeKeyExpand s).ksize = s.ksize := rfl
@[simp] theorem completeKeyExpand_irqEn : (completeKeyExpand s).irqEn = s.irqEn := rfl
@[simp] theorem completeKeyExpand_busy : (completeKeyExpand s).busy = false := rfl
@[simp] theorem completeKeyExpand_done : (completeKeyExpand s).done = true := rfl
@[simp] theorem completeKeyExpand_err : (completeKeyExpand s).err = s.err := rfl
@[simp] theorem completeKeyExpand_errOvf : (completeKeyExpand s).errOvf = s.errOvf := rfl
@[simp] theorem completeKeyExpand_errCode : (completeKeyExpand s).errCode = s.errCode := rfl
@[simp] theorem completeKeyExpand_schedValid : (completeKeyExpand s).schedValid = true := rfl
@[simp] theorem completeKeyExpand_schedKsize : (completeKeyExpand s).schedKsize = s.xKsize := rfl
@[simp] theorem completeKeyExpand_keyWr : (completeKeyExpand s).keyWr = s.keyWr := rfl
@[simp] theorem completeKeyExpand_block : (completeKeyExpand s).block = s.block := rfl
@[simp] theorem completeKeyExpand_key : (completeKeyExpand s).key = s.key := rfl
@[simp] theorem completeKeyExpand_opa : (completeKeyExpand s).opa = s.opa := rfl
@[simp] theorem completeKeyExpand_opb : (completeKeyExpand s).opb = s.opb := rfl
@[simp] theorem completeKeyExpand_result : (completeKeyExpand s).result = s.result := rfl
@[simp] theorem completeKeyExpand_sched : (completeKeyExpand s).sched = s.sched := rfl
@[simp] theorem completeKeyExpand_fsm : (completeKeyExpand s).fsm = .idle := rfl
@[simp] theorem completeKeyExpand_curOp : (completeKeyExpand s).curOp = s.curOp := rfl
@[simp] theorem completeKeyExpand_curRnd : (completeKeyExpand s).curRnd = s.curRnd := rfl
@[simp] theorem completeKeyExpand_ctr : (completeKeyExpand s).ctr = s.ctr := rfl
@[simp] theorem completeKeyExpand_xKsize : (completeKeyExpand s).xKsize = s.xKsize := rfl
@[simp] theorem completeKeyExpand_events : (completeKeyExpand s).events = s.events := rfl
@[simp] theorem completeKeyExpand_responses : (completeKeyExpand s).responses = s.responses := rfl
@[simp] theorem completeKeyExpand_draws : (completeKeyExpand s).draws = s.draws := rfl

end completeKeyExpand

section kexpLoad

variable (v : Variant) (s : State)

@[simp] theorem kexpLoad_ksize : (kexpLoad v s).ksize = s.ksize := by dsimp only [kexpLoad]
@[simp] theorem kexpLoad_irqEn : (kexpLoad v s).irqEn = s.irqEn := by dsimp only [kexpLoad]
@[simp] theorem kexpLoad_busy : (kexpLoad v s).busy = s.busy := by dsimp only [kexpLoad]
@[simp] theorem kexpLoad_done : (kexpLoad v s).done = s.done := by dsimp only [kexpLoad]
@[simp] theorem kexpLoad_err : (kexpLoad v s).err = s.err := by dsimp only [kexpLoad]
@[simp] theorem kexpLoad_errOvf : (kexpLoad v s).errOvf = s.errOvf := by dsimp only [kexpLoad]
@[simp] theorem kexpLoad_errCode : (kexpLoad v s).errCode = s.errCode := by dsimp only [kexpLoad]
@[simp] theorem kexpLoad_schedValid : (kexpLoad v s).schedValid = s.schedValid := by dsimp only [kexpLoad]
@[simp] theorem kexpLoad_schedKsize : (kexpLoad v s).schedKsize = s.schedKsize := by dsimp only [kexpLoad]
@[simp] theorem kexpLoad_keyWr : (kexpLoad v s).keyWr = s.keyWr := by dsimp only [kexpLoad]
@[simp] theorem kexpLoad_block : (kexpLoad v s).block = s.block := by dsimp only [kexpLoad]
@[simp] theorem kexpLoad_key : (kexpLoad v s).key = s.key := by dsimp only [kexpLoad]
@[simp] theorem kexpLoad_opa : (kexpLoad v s).opa = s.opa := by dsimp only [kexpLoad]
@[simp] theorem kexpLoad_opb : (kexpLoad v s).opb = s.opb := by dsimp only [kexpLoad]
@[simp] theorem kexpLoad_result : (kexpLoad v s).result = s.result := by dsimp only [kexpLoad]
@[simp] theorem kexpLoad_sched : (kexpLoad v s).sched = loadedSchedule v s.key s.sched := by dsimp only [kexpLoad]
@[simp] theorem kexpLoad_fsm : (kexpLoad v s).fsm = s.fsm := by dsimp only [kexpLoad]
@[simp] theorem kexpLoad_curOp : (kexpLoad v s).curOp = s.curOp := by dsimp only [kexpLoad]
@[simp] theorem kexpLoad_curRnd : (kexpLoad v s).curRnd = s.curRnd := by dsimp only [kexpLoad]
@[simp] theorem kexpLoad_ctr : (kexpLoad v s).ctr = BitVec.ofNat 6 v.nk := by dsimp only [kexpLoad]
@[simp] theorem kexpLoad_xKsize : (kexpLoad v s).xKsize = s.xKsize := by dsimp only [kexpLoad]
@[simp] theorem kexpLoad_events : (kexpLoad v s).events = s.events := by dsimp only [kexpLoad]
@[simp] theorem kexpLoad_responses : (kexpLoad v s).responses = s.responses := by dsimp only [kexpLoad]
@[simp] theorem kexpLoad_draws : (kexpLoad v s).draws = s.draws := by dsimp only [kexpLoad]

end kexpLoad

section roundStep

variable (b : Block) (s : State)

@[simp] theorem roundStep_ksize : (roundStep b s).ksize = s.ksize := rfl
@[simp] theorem roundStep_irqEn : (roundStep b s).irqEn = s.irqEn := rfl
@[simp] theorem roundStep_busy : (roundStep b s).busy = s.busy := rfl
@[simp] theorem roundStep_done : (roundStep b s).done = s.done := rfl
@[simp] theorem roundStep_err : (roundStep b s).err = s.err := rfl
@[simp] theorem roundStep_errOvf : (roundStep b s).errOvf = s.errOvf := rfl
@[simp] theorem roundStep_errCode : (roundStep b s).errCode = s.errCode := rfl
@[simp] theorem roundStep_schedValid : (roundStep b s).schedValid = s.schedValid := rfl
@[simp] theorem roundStep_schedKsize : (roundStep b s).schedKsize = s.schedKsize := rfl
@[simp] theorem roundStep_keyWr : (roundStep b s).keyWr = s.keyWr := rfl
@[simp] theorem roundStep_block : (roundStep b s).block = b := rfl
@[simp] theorem roundStep_key : (roundStep b s).key = s.key := rfl
@[simp] theorem roundStep_opa : (roundStep b s).opa = s.opa := rfl
@[simp] theorem roundStep_opb : (roundStep b s).opb = s.opb := rfl
@[simp] theorem roundStep_result : (roundStep b s).result = s.result := rfl
@[simp] theorem roundStep_sched : (roundStep b s).sched = s.sched := rfl
@[simp] theorem roundStep_fsm : (roundStep b s).fsm = s.fsm := rfl
@[simp] theorem roundStep_curOp : (roundStep b s).curOp = s.curOp := rfl
@[simp] theorem roundStep_curRnd : (roundStep b s).curRnd = s.curRnd := rfl
@[simp] theorem roundStep_ctr : (roundStep b s).ctr = s.ctr + 1 := rfl
@[simp] theorem roundStep_xKsize : (roundStep b s).xKsize = s.xKsize := rfl
@[simp] theorem roundStep_events : (roundStep b s).events = s.events := rfl
@[simp] theorem roundStep_responses : (roundStep b s).responses = s.responses := rfl
@[simp] theorem roundStep_draws : (roundStep b s).draws = s.draws := rfl

end roundStep

section clearKeys

variable (s : State)

@[simp] theorem clearKeys_ksize : (clearKeys s).ksize = s.ksize := rfl
@[simp] theorem clearKeys_irqEn : (clearKeys s).irqEn = s.irqEn := rfl
@[simp] theorem clearKeys_busy : (clearKeys s).busy = s.busy := rfl
@[simp] theorem clearKeys_done : (clearKeys s).done = s.done := rfl
@[simp] theorem clearKeys_err : (clearKeys s).err = s.err := rfl
@[simp] theorem clearKeys_errOvf : (clearKeys s).errOvf = s.errOvf := rfl
@[simp] theorem clearKeys_errCode : (clearKeys s).errCode = s.errCode := rfl
@[simp] theorem clearKeys_schedValid : (clearKeys s).schedValid = s.schedValid := rfl
@[simp] theorem clearKeys_schedKsize : (clearKeys s).schedKsize = s.schedKsize := rfl
@[simp] theorem clearKeys_keyWr : (clearKeys s).keyWr = 0 := rfl
@[simp] theorem clearKeys_block : (clearKeys s).block = s.block := rfl
@[simp] theorem clearKeys_key : (clearKeys s).key = Vector.replicate 8 0 := rfl
@[simp] theorem clearKeys_opa : (clearKeys s).opa = s.opa := rfl
@[simp] theorem clearKeys_opb : (clearKeys s).opb = s.opb := rfl
@[simp] theorem clearKeys_result : (clearKeys s).result = s.result := rfl
@[simp] theorem clearKeys_sched : (clearKeys s).sched = s.sched := rfl
@[simp] theorem clearKeys_fsm : (clearKeys s).fsm = s.fsm := rfl
@[simp] theorem clearKeys_curOp : (clearKeys s).curOp = s.curOp := rfl
@[simp] theorem clearKeys_curRnd : (clearKeys s).curRnd = s.curRnd := rfl
@[simp] theorem clearKeys_ctr : (clearKeys s).ctr = s.ctr := rfl
@[simp] theorem clearKeys_xKsize : (clearKeys s).xKsize = s.xKsize := rfl
@[simp] theorem clearKeys_events : (clearKeys s).events = s.events := rfl
@[simp] theorem clearKeys_responses : (clearKeys s).responses = s.responses := rfl
@[simp] theorem clearKeys_draws : (clearKeys s).draws = s.draws := rfl

end clearKeys

section zeroizeData

variable (s : State)

@[simp] theorem zeroizeData_ksize : (zeroizeData s).ksize = s.ksize := rfl
@[simp] theorem zeroizeData_irqEn : (zeroizeData s).irqEn = s.irqEn := rfl
@[simp] theorem zeroizeData_busy : (zeroizeData s).busy = s.busy := rfl
@[simp] theorem zeroizeData_done : (zeroizeData s).done = s.done := rfl
@[simp] theorem zeroizeData_err : (zeroizeData s).err = s.err := rfl
@[simp] theorem zeroizeData_errOvf : (zeroizeData s).errOvf = s.errOvf := rfl
@[simp] theorem zeroizeData_errCode : (zeroizeData s).errCode = s.errCode := rfl
@[simp] theorem zeroizeData_schedValid : (zeroizeData s).schedValid = false := rfl
@[simp] theorem zeroizeData_schedKsize : (zeroizeData s).schedKsize = 0 := rfl
@[simp] theorem zeroizeData_keyWr : (zeroizeData s).keyWr = 0 := rfl
@[simp] theorem zeroizeData_block : (zeroizeData s).block = Block.zero := rfl
@[simp] theorem zeroizeData_key : (zeroizeData s).key = Vector.replicate 8 0 := rfl
@[simp] theorem zeroizeData_opa : (zeroizeData s).opa = 0 := rfl
@[simp] theorem zeroizeData_opb : (zeroizeData s).opb = 0 := rfl
@[simp] theorem zeroizeData_result : (zeroizeData s).result = 0 := rfl
@[simp] theorem zeroizeData_sched : (zeroizeData s).sched = Vector.replicate 60 0 := rfl
@[simp] theorem zeroizeData_fsm : (zeroizeData s).fsm = s.fsm := rfl
@[simp] theorem zeroizeData_curOp : (zeroizeData s).curOp = s.curOp := rfl
@[simp] theorem zeroizeData_curRnd : (zeroizeData s).curRnd = s.curRnd := rfl
@[simp] theorem zeroizeData_ctr : (zeroizeData s).ctr = s.ctr := rfl
@[simp] theorem zeroizeData_xKsize : (zeroizeData s).xKsize = s.xKsize := rfl
@[simp] theorem zeroizeData_events : (zeroizeData s).events = s.events := rfl
@[simp] theorem zeroizeData_responses : (zeroizeData s).responses = s.responses := rfl
@[simp] theorem zeroizeData_draws : (zeroizeData s).draws = s.draws := rfl

end zeroizeData

section raiseError

variable (code : ErrCode) (s : State)

@[simp] theorem raiseError_ksize : (raiseError code s).ksize = s.ksize := by unfold raiseError; split <;> rfl
@[simp] theorem raiseError_irqEn : (raiseError code s).irqEn = s.irqEn := by unfold raiseError; split <;> rfl
@[simp] theorem raiseError_busy : (raiseError code s).busy = s.busy := by unfold raiseError; split <;> rfl
@[simp] theorem raiseError_done : (raiseError code s).done = s.done := by unfold raiseError; split <;> rfl
@[simp] theorem raiseError_schedValid : (raiseError code s).schedValid = s.schedValid := by unfold raiseError; split <;> rfl
@[simp] theorem raiseError_schedKsize : (raiseError code s).schedKsize = s.schedKsize := by unfold raiseError; split <;> rfl
@[simp] theorem raiseError_keyWr : (raiseError code s).keyWr = s.keyWr := by unfold raiseError; split <;> rfl
@[simp] theorem raiseError_block : (raiseError code s).block = s.block := by unfold raiseError; split <;> rfl
@[simp] theorem raiseError_key : (raiseError code s).key = s.key := by unfold raiseError; split <;> rfl
@[simp] theorem raiseError_opa : (raiseError code s).opa = s.opa := by unfold raiseError; split <;> rfl
@[simp] theorem raiseError_opb : (raiseError code s).opb = s.opb := by unfold raiseError; split <;> rfl
@[simp] theorem raiseError_result : (raiseError code s).result = s.result := by unfold raiseError; split <;> rfl
@[simp] theorem raiseError_sched : (raiseError code s).sched = s.sched := by unfold raiseError; split <;> rfl
@[simp] theorem raiseError_fsm : (raiseError code s).fsm = s.fsm := by unfold raiseError; split <;> rfl
@[simp] theorem raiseError_curOp : (raiseError code s).curOp = s.curOp := by unfold raiseError; split <;> rfl
@[simp] theorem raiseError_curRnd : (raiseError code s).curRnd = s.curRnd := by unfold raiseError; split <;> rfl
@[simp] theorem raiseError_ctr : (raiseError code s).ctr = s.ctr := by unfold raiseError; split <;> rfl
@[simp] theorem raiseError_xKsize : (raiseError code s).xKsize = s.xKsize := by unfold raiseError; split <;> rfl
@[simp] theorem raiseError_events : (raiseError code s).events = s.events := by unfold raiseError; split <;> rfl
@[simp] theorem raiseError_responses : (raiseError code s).responses = s.responses := by unfold raiseError; split <;> rfl
@[simp] theorem raiseError_draws : (raiseError code s).draws = s.draws := by unfold raiseError; split <;> rfl

@[simp] theorem raiseError_err : (raiseError code s).err = true := by
  unfold raiseError
  split
  · assumption
  · rfl

/-- ERRCODE keeps the first code (R231). -/
@[simp] theorem raiseError_errCode : (raiseError code s).errCode = if s.err then s.errCode else code := by
  unfold raiseError
  split <;> rfl

/-- ERR_OVF is set by a further error only (R231). -/
@[simp] theorem raiseError_errOvf : (raiseError code s).errOvf = if s.err then true else s.errOvf := by
  unfold raiseError
  split <;> rfl

end raiseError

end Sys2Proof.Machine
end

