-- ==== Sys2Proof/Laws/Operands.lean ====
section
/-! SUPPORT. The small lemmas of the operand forms: bytes of words, bytes of the state matrix, words of the schedule
RAM, key sizes. -/

namespace Sys2Proof.Machine

theorem Column.ext_get {a b : Column} (h : ∀ r, a.get r = b.get r) : a = b := by
  cases a
  cases b
  have h0 := h 0
  have h1 := h 1
  have h2 := h 2
  have h3 := h 3
  simp only [Column.get] at h0 h1 h2 h3
  simp only [h0, h1, h2, h3]

@[simp] theorem Column.get_ofFn (f : Fin 4 → Byte) (r : Fin 4) : (Column.ofFn f).get r = f r := by
  match r with
  | 0 => rfl
  | 1 => rfl
  | 2 => rfl
  | 3 => rfl

@[simp] theorem Block.column_ofFn (f : Fin 4 → Fin 4 → Byte) (c : Fin 4) :
    (Block.ofFn f).column c = Column.ofFn fun r => f r c := by
  match c with
  | 0 => rfl
  | 1 => rfl
  | 2 => rfl
  | 3 => rfl

@[simp] theorem Block.get_ofFn (f : Fin 4 → Fin 4 → Byte) (r c : Fin 4) : (Block.ofFn f).get r c = f r c := by
  simp only [Block.get, Block.column_ofFn, Column.get_ofFn]

theorem Block.ext_column {a b : Block} (h : ∀ c, a.column c = b.column c) : a = b := by
  cases a
  cases b
  have h0 := h 0
  have h1 := h 1
  have h2 := h 2
  have h3 := h 3
  simp only [Block.column] at h0 h1 h2 h3
  simp only [h0, h1, h2, h3]

theorem Block.ext_get {a b : Block} (h : ∀ r c, a.get r c = b.get r c) : a = b :=
  Block.ext_column fun c => Column.ext_get fun r => h r c

@[simp] theorem Block.get_zero (r c : Fin 4) : Block.zero.get r c = 0 := Block.get_ofFn _ r c

@[simp] theorem Block.column_mapColumns (f : Column → Column) (b : Block) (c : Fin 4) :
    (b.mapColumns f).column c = f (b.column c) := by
  match c with
  | 0 => rfl
  | 1 => rfl
  | 2 => rfl
  | 3 => rfl

/-- Every block is given by its bytes. -/
theorem Block.ofFn_get (b : Block) : Block.ofFn (fun r c => b.get r c) = b := Block.ext_get fun r c => by simp

@[simp] theorem byteOf_wordOf_zero (a b c d : Byte) : byteOf (wordOf a b c d) 0 = a := by
  ext i hi
  simp only [byteOf, wordOf, BitVec.getElem_extractLsb', BitVec.getLsbD_append]
  rw [if_neg (by simp; omega), if_neg (by simp; omega), if_neg (by simp; omega)]
  rw [← BitVec.getLsbD_eq_getElem hi]
  congr 1
  simp; omega

@[simp] theorem byteOf_wordOf_one (a b c d : Byte) : byteOf (wordOf a b c d) 1 = b := by
  ext i hi
  simp only [byteOf, wordOf, BitVec.getElem_extractLsb', BitVec.getLsbD_append]
  rw [if_neg (by simp; omega), if_neg (by simp; omega), if_pos (by simp; omega)]
  rw [← BitVec.getLsbD_eq_getElem hi]
  congr 1
  simp; omega

@[simp] theorem byteOf_wordOf_two (a b c d : Byte) : byteOf (wordOf a b c d) 2 = c := by
  ext i hi
  simp only [byteOf, wordOf, BitVec.getElem_extractLsb', BitVec.getLsbD_append]
  rw [if_neg (by simp), if_pos (by simp; omega)]
  rw [← BitVec.getLsbD_eq_getElem hi]
  congr 1
  simp

@[simp] theorem byteOf_wordOf_three (a b c d : Byte) : byteOf (wordOf a b c d) 3 = d := by
  ext i hi
  simp only [byteOf, wordOf, BitVec.getElem_extractLsb', BitVec.getLsbD_append]
  rw [if_pos (by simp; omega)]
  rw [← BitVec.getLsbD_eq_getElem hi]
  congr 1
  simp

/-- A word is given by its four bytes. -/
theorem word_ext {u w : Word} (h : ∀ j, byteOf u j = byteOf w j) : u = w := by
  ext i hi
  have key : ∀ j : Fin 4, 24 - 8 * j.val ≤ i → i < 24 - 8 * j.val + 8 → u[i] = w[i] := by
    intro j h1 h2
    have := congrArg (fun b : Byte => b.getLsbD (i - (24 - 8 * j.val))) (h j)
    simp only [byteOf, BitVec.getLsbD_extractLsb'] at this
    rw [show 24 - 8 * j.val + (i - (24 - 8 * j.val)) = i by omega] at this
    simp only [show i - (24 - 8 * j.val) < 8 by omega, decide_true, Bool.true_and] at this
    simpa only [BitVec.getLsbD_eq_getElem hi] using this
  by_cases h3 : i < 8
  · exact key 3 (by simp) (by simp; omega)
  by_cases h2 : i < 16
  · exact key 2 (by simp; omega) (by simp; omega)
  by_cases h1 : i < 24
  · exact key 1 (by simp; omega) (by simp; omega)
  · exact key 0 (by simp; omega) (by simp; omega)

/-- `word` of the four bytes of w is w. -/
@[simp] theorem wordOf_byteOf (w : Word) : wordOf (byteOf w 0) (byteOf w 1) (byteOf w 2) (byteOf w 3) = w := by
  refine word_ext fun j => ?_
  match j with
  | 0 => exact byteOf_wordOf_zero _ _ _ _
  | 1 => exact byteOf_wordOf_one _ _ _ _
  | 2 => exact byteOf_wordOf_two _ _ _ _
  | 3 => exact byteOf_wordOf_three _ _ _ _

/-- STATEc read after a write of v to it is v. -/
@[simp] theorem Block.stateWord_setStateWord_self (b : Block) (c : Fin 4) (v : Word) :
    (b.setStateWord c v).stateWord c = v := by
  simp [Block.stateWord, Block.setStateWord]

/-- Another column is unchanged by a write of STATEc. -/
theorem Block.stateWord_setStateWord_ne (b : Block) {c c' : Fin 4} (h : c' ≠ c) (v : Word) :
    (b.setStateWord c v).stateWord c' = b.stateWord c' := by
  simp [Block.stateWord, Block.setStateWord, h]

theorem schedWord_of_lt (w : Vector Word 60) {i : Nat} (h : i < 60) : schedWord w i = w[i] := by
  simp only [schedWord, h, dite_true]

theorem schedWord_set_self (w : Vector Word 60) {i : Nat} (h : i < 60) (x : Word) :
    schedWord (w.setIfInBounds i x) i = x := by
  rw [schedWord_of_lt _ h]
  exact Vector.getElem_setIfInBounds_self h

theorem schedWord_set_ne (w : Vector Word 60) {i j : Nat} (h : i ≠ j) (x : Word) :
    schedWord (w.setIfInBounds i x) j = schedWord w j := by
  unfold schedWord
  split
  · exact Vector.getElem_setIfInBounds_ne _ h
  · rfl

theorem loadedSchedule_getElem (v : Variant) (k : Vector Word 8) (w : Vector Word 60) (i : Nat) (h : i < 60) :
    (loadedSchedule v k w)[i] = if i < v.nk then keyWord k i else if v.words ≤ i then 0 else w[i] := by
  simp only [loadedSchedule, Vector.getElem_ofFn, Fin.getElem_fin]

@[simp] theorem variantOf_bits (v : Variant) : variantOf v.bits = some v := by
  cases v <;> rfl

theorem bits_of_variantOf {ks : BitVec 2} {v : Variant} (h : variantOf ks = some v) : ks = v.bits := by
  revert h
  revert ks v
  decide

/-- Only the key size 3 is unsupported (R22). -/
theorem variantOf_eq_none_iff (ks : BitVec 2) : variantOf ks = none ↔ ks = 3 := by
  revert ks
  decide

theorem exists_variantOf {ks : BitVec 2} (h : ks ≠ 3) : ∃ v, variantOf ks = some v :=
  Option.ne_none_iff_exists'.mp fun e => h ((variantOf_eq_none_iff ks).mp e)

theorem Variant.nk_ge (v : Variant) : 4 ≤ v.nk := by cases v <;> decide

theorem Variant.nk_le (v : Variant) : v.nk ≤ 8 := by cases v <;> decide

theorem Variant.nr_le (v : Variant) : v.nr ≤ 14 := by cases v <;> decide

theorem Variant.words_le (v : Variant) : v.words ≤ 60 := by cases v <;> decide

theorem Variant.nk_lt_words (v : Variant) : v.nk < v.words := by cases v <;> decide

end Sys2Proof.Machine
end

