-- ==== Sys2Proof/Laws/Ops.lean ====
section
/-! SUPPORT. What each shared operation of a command can do, said once: `issue`, `command`, `primCommand`, the checks. -/

namespace Sys2Proof.Machine

variable {check : State → Verdict} {accepted : State → State} {cls : Fsm} {engineStep : State → Result}
  {effect : State → State} {op : BitVec 8} {rnd : BitVec 4} {s t : State}

/-- The whole of `issue` (R232, R233): if it answers next, the write was refused for a pending error, accepted, or
refused with its check's code. -/
theorem issue_next {verdict : Verdict} (h : issue verdict accepted s = .next t) :
    (s.err = true ∧ t = refusePending s) ∨ (s.err = false ∧ verdict = .pass ∧ t = accepted s) ∨
      (s.err = false ∧ ∃ code, verdict = .refuse code ∧ t = raiseError code s) := by
  unfold issue at h
  cases he : s.err with
  | true =>
    rw [he] at h
    exact .inl ⟨rfl, (Host.Outcome.next.inj h).symm⟩
  | false =>
    rw [he] at h
    cases verdict with
    | pass => exact .inr (.inl ⟨rfl, rfl, (Host.Outcome.next.inj h).symm⟩)
    | refuse code => exact .inr (.inr ⟨rfl, code, rfl, (Host.Outcome.next.inj h).symm⟩)
    | stuck reason => exact nomatch h

theorem command_of_not_busy (h : s.busy = false) :
    command check accepted cls engineStep s = issue (check s) accepted s := by
  simp only [command, h, Bool.false_eq_true, if_false]

theorem command_of_running (h : Running cls s) : command check accepted cls engineStep s = engineStep s := by
  simp only [command, h.busy, h.fsm, if_true]

/-- The whole of `command`: if it answers next, it was a CMD write's part or an engine step of its class. -/
theorem command_next (h : command check accepted cls engineStep s = .next t) :
    (s.busy = false ∧ issue (check s) accepted s = .next t) ∨ (Running cls s ∧ engineStep s = .next t) := by
  cases hb : s.busy with
  | false => exact .inl ⟨rfl, by rwa [command_of_not_busy hb] at h⟩
  | true =>
    simp only [command, hb, if_true] at h
    split at h
    · rename_i hf
      exact .inr ⟨⟨hb, hf⟩, h⟩
    · exact nomatch h

theorem command_of_idle_pass (h : Idle s) (hc : check s = .pass) :
    command check accepted cls engineStep s = .next (accepted s) := by
  rw [command_of_not_busy h.busy]
  simp only [issue, h.err, hc, Bool.false_eq_true, if_false]

theorem command_of_idle_refuse {code : ErrCode} (h : Idle s) (hc : check s = .refuse code) :
    command check accepted cls engineStep s = .next (raiseError code s) := by
  rw [command_of_not_busy h.busy]
  simp only [issue, h.err, hc, Bool.false_eq_true, if_false]

theorem primCommand_of_idle_pass (h : Idle s) (hc : check s = .pass) :
    primCommand op rnd check effect s = .next (accept op rnd .prim s) := command_of_idle_pass h hc

theorem primCommand_of_idle_refuse {code : ErrCode} (h : Idle s) (hc : check s = .refuse code) :
    primCommand op rnd check effect s = .next (raiseError code s) := command_of_idle_refuse h hc

/-- The engine step of a single-operation command always completes it (R165). -/
theorem primCommand_of_running (h : Running .prim s) :
    primCommand op rnd check effect s = .next (complete (effect s)) := command_of_running h

/-- The whole of `primCommand`. -/
theorem primCommand_next (h : primCommand op rnd check effect s = .next t) :
    (s.busy = false ∧ issue (check s) (accept op rnd .prim) s = .next t) ∨
      (Running .prim s ∧ t = complete (effect s)) := by
  rcases command_next h with h | ⟨hr, he⟩
  · exact .inl h
  · exact .inr ⟨hr, (Host.Outcome.next.inj he).symm⟩

/-- With no error recorded, `raise Error(code)` records the code (R231). -/
theorem raiseError_of_no_error (h : s.err = false) (code : ErrCode) :
    raiseError code s = { s with err := true, errCode := code } := by
  simp only [raiseError, h, Bool.false_eq_true, if_false]

/-- With an error recorded, it sets only ERR_OVF (R231, R237). -/
theorem raiseError_of_error (h : s.err = true) (code : ErrCode) :
    raiseError code s = { s with errOvf := true } := by
  simp only [raiseError, h, if_true]

theorem checkSchedule_of_valid (h : s.schedValid = true) : checkSchedule s = .pass := by
  simp only [checkSchedule, h, if_true]

theorem checkSchedule_of_invalid (h : s.schedValid = false) : checkSchedule s = .refuse .noSchedule := by
  simp only [checkSchedule, h, Bool.false_eq_true, if_false]

theorem checkRound_of_invalid (h : s.schedValid = false) (rnd : Nat) :
    checkRound rnd s = .refuse .noSchedule := by
  simp only [checkRound, h, Bool.false_eq_true, if_false]

theorem checkRound_of_valid {v : Variant} (h : s.schedValid = true) (hv : variantOf s.schedKsize = some v)
    (rnd : Nat) : checkRound rnd s = if rnd > v.nr then .refuse .roundRange else .pass := by
  simp only [checkRound, h, hv, if_true]

theorem checkKey_of_variant {v : Variant} (hv : variantOf s.ksize = some v) :
    checkKey s = if s.keyWr ≠ v.keyMask then .refuse .invalidKeyLength else .pass := by
  simp only [checkKey, hv]

theorem checkKey_of_unsupported (h : s.ksize = 3) : checkKey s = .refuse .unsupportedVariant := by
  simp only [checkKey, (variantOf_eq_none_iff s.ksize).mpr h]

end Sys2Proof.Machine
end

