-- ==== Sys2Proof/Laws/Encoding.lean ====
section
/-! SUPPORT. The fields of a command word built by format C (R90), and the latched word of an accepted command (R43). -/

namespace Sys2Proof

theorem opcodeField_formatC (op : BitVec 8) (rnd : BitVec 4) :
    opcodeField (op.setWidth 32 ||| (rnd.setWidth 32 <<< 8)) = op := by
  ext i hi
  simp only [opcodeField, BitVec.getElem_extractLsb', BitVec.getLsbD_or, BitVec.getLsbD_setWidth,
    BitVec.getLsbD_shiftLeft, Nat.zero_add, hi, decide_true, Bool.not_true, Bool.and_false, Bool.false_and,
    Bool.or_false, show i < 32 by omega, Bool.true_and]
  exact BitVec.getLsbD_eq_getElem hi

theorem rndField_formatC (op : BitVec 8) (rnd : BitVec 4) :
    rndField (op.setWidth 32 ||| (rnd.setWidth 32 <<< 8)) = rnd := by
  ext i hi
  simp only [rndField, BitVec.getElem_extractLsb', BitVec.getLsbD_or, BitVec.getLsbD_setWidth,
    BitVec.getLsbD_shiftLeft, show ¬ 8 + i < 8 by omega, show 8 + i < 32 by omega, decide_true, decide_false,
    Bool.not_false, Bool.true_and, Nat.add_sub_cancel_left, show i < 32 by omega,
    BitVec.getLsbD_of_ge op (8 + i) (by omega), Bool.false_or, BitVec.getLsbD_eq_getElem hi]

theorem reservedField_formatC (op : BitVec 8) (rnd : BitVec 4) :
    reservedField (op.setWidth 32 ||| (rnd.setWidth 32 <<< 8)) = 0 := by
  ext i hi
  simp only [reservedField, BitVec.getElem_extractLsb', BitVec.getLsbD_or, BitVec.getLsbD_setWidth,
    BitVec.getLsbD_shiftLeft, BitVec.getLsbD_of_ge op (12 + i) (by omega),
    BitVec.getLsbD_of_ge rnd (12 + i - 8) (by omega), Bool.and_false, Bool.or_false, BitVec.ofNat_eq_ofNat,
    BitVec.getElem_zero]

/-- A word is given by its three fields (R90). -/
theorem formatC_of_fields (c : Word) (h : reservedField c = 0) :
    ((opcodeField c).setWidth 32 ||| ((rndField c).setWidth 32 <<< 8)) = c := by
  ext i hi
  have hr : ∀ k, k < 20 → c.getLsbD (12 + k) = false := fun k hk => by
    have := congrArg (fun b : BitVec 20 => b.getLsbD k) h
    simpa [reservedField, BitVec.getLsbD_extractLsb', hk] using this
  simp only [opcodeField, rndField, BitVec.getElem_or, BitVec.getElem_setWidth, BitVec.getElem_shiftLeft,
    BitVec.getLsbD_extractLsb']
  by_cases h8 : i < 8
  · simp [h8, BitVec.getLsbD_eq_getElem hi]
  by_cases h12 : i < 12
  · simp [h8, show i - 8 < 4 by omega, show 8 + (i - 8) = i by omega, BitVec.getLsbD_eq_getElem hi]
  · have := hr (i - 12) (by omega)
    rw [show 12 + (i - 12) = i by omega, BitVec.getLsbD_eq_getElem hi] at this
    simp [h8, show ¬ i - 8 < 4 by omega, this]

namespace Machine

/-- The latched word of a command accepted with opcode `op` and round index `rnd`, field by field. -/
theorem latchedWord_accept (op : BitVec 8) (rnd : BitVec 4) (cls : Fsm) (s : State) :
    latchedWord (accept op rnd cls s) = (op.setWidth 32 ||| (rnd.setWidth 32 <<< 8)) := rfl

/-- An engine that latched the opcode and the round bits of `i` has latched `i`'s word (R43). -/
theorem latchedWord_eq_encode {s : State} {i : Instr} (ho : s.curOp = i.opcode) (hr : s.curRnd = i.rndBits) :
    latchedWord s = encode i := by
  simp only [latchedWord, encode, ho, hr]

end Machine

end Sys2Proof
end

