-- ==== Sys2Proof/Laws/Step.lean ====
section
/-! SUPPORT. What a step can do: the step of each kind of event, the turn of the engine, register writes. -/

namespace Sys2Proof.Machine

variable {s t : State} {e : Event} {rest : List Event}

theorem step_of_event (h : s.events = e :: rest) : step s = perform e { s with events := rest } := by
  simp only [step, h]

theorem step_of_no_event (h : s.events = []) : step s = engineTurn s := by
  simp only [step, h]

/-- The whole of `step`: a pending event is performed, or the engine has its turn (R7, R189). -/
theorem step_next (h : step s = .next t) :
    (s.events = [] ∧ engineTurn s = .next t) ∨
      ∃ e rest, s.events = e :: rest ∧ perform e { s with events := rest } = .next t := by
  cases he : s.events with
  | nil => exact .inl ⟨rfl, by rwa [step_of_no_event he] at h⟩
  | cons e rest => exact .inr ⟨e, rest, rfl, by rwa [step_of_event he] at h⟩

theorem engineTurn_of_idle (h : s.busy = false) : engineTurn s = .next s := by
  simp only [engineTurn, h, Bool.false_eq_true, if_false]

theorem engineTurn_of_latched {i : Instr} (h : s.busy = true) (hi : latchedCommand s = some i) :
    engineTurn s = exec i s := by
  simp only [engineTurn, h, hi, if_true]

/-- The whole of `engineTurn` (R189). -/
theorem engineTurn_next (h : engineTurn s = .next t) :
    (s.busy = false ∧ t = s) ∨ (s.busy = true ∧ ∃ i, latchedCommand s = some i ∧ exec i s = .next t) := by
  cases hb : s.busy with
  | false =>
    rw [engineTurn_of_idle hb] at h
    exact .inl ⟨rfl, (Host.Outcome.next.inj h).symm⟩
  | true =>
    cases hl : latchedCommand s with
    | none => simp [engineTurn, hb, hl] at h
    | some i => exact .inr ⟨rfl, i, rfl, by rwa [engineTurn_of_latched hb hl] at h⟩

theorem writeCmd_of_busy (h : s.busy = true) (c : Word) : writeCmd c s = .next (raiseError .busy s) := by
  simp only [writeCmd, h, if_true]

theorem writeCmd_of_error (hb : s.busy = false) (he : s.err = true) (c : Word) :
    writeCmd c s = .next (refusePending s) := by
  simp only [writeCmd, hb, he, Bool.false_eq_true, if_false, if_true]

theorem writeCmd_of_illegal {c : Word} {x : DecodeError} (h : Idle s) (hc : decode c = .error x) :
    writeCmd c s = .next (raiseError .illegalCmd s) := by
  simp only [writeCmd, h.busy, h.err, hc, Bool.false_eq_true, if_false]

theorem writeCmd_of_decoded {c : Word} {i : Instr} (h : Idle s) (hc : decode c = .ok i) :
    writeCmd c s = exec i s := by
  simp only [writeCmd, h.busy, h.err, hc, Bool.false_eq_true, if_false]

/-- The whole of `writeCmd` (R233). -/
theorem writeCmd_next {c : Word} (h : writeCmd c s = .next t) :
    (s.busy = true ∧ t = raiseError .busy s) ∨ (s.busy = false ∧ s.err = true ∧ t = refusePending s) ∨
      (Idle s ∧ t = raiseError .illegalCmd s) ∨ (Idle s ∧ ∃ i, decode c = .ok i ∧ exec i s = .next t) := by
  cases hb : s.busy with
  | true =>
    rw [writeCmd_of_busy hb] at h
    exact .inl ⟨rfl, (Host.Outcome.next.inj h).symm⟩
  | false =>
    cases he : s.err with
    | true =>
      rw [writeCmd_of_error hb he] at h
      exact .inr (.inl ⟨rfl, rfl, (Host.Outcome.next.inj h).symm⟩)
    | false =>
      have hi : Idle s := ⟨hb, he⟩
      cases hd : decode c with
      | error x =>
        rw [writeCmd_of_illegal hi hd] at h
        exact .inr (.inr (.inl ⟨hi, (Host.Outcome.next.inj h).symm⟩))
      | ok i =>
        rw [writeCmd_of_decoded hi hd] at h
        exact .inr (.inr (.inr ⟨hi, i, rfl, h⟩))

theorem whenIdle_of_idle {write : State → State} (h : s.busy = false) : whenIdle write s = write s := by
  simp only [whenIdle, h, Bool.false_eq_true, if_false]

/-- A data write while busy is dropped and recorded (R66). -/
theorem whenIdle_of_busy {write : State → State} (h : s.busy = true) : whenIdle write s = raiseError .busy s := by
  simp only [whenIdle, h, if_true]

/-- Every read returns one response and changes nothing else but the count of draws (R64). -/
theorem busRead_frame (off : BitVec 12) (size : Nat) (s : State) :
    ∃ r n, busRead off size s = { s with responses := r :: s.responses, draws := n } := by
  have hdata : ∀ w, ∃ r n, readData w s = { s with responses := r :: s.responses, draws := n } := fun w => by
    unfold readData
    split
    · exact ⟨.data (Config.draw s.draws), s.draws + 1, rfl⟩
    · exact ⟨.data w, s.draws, rfl⟩
  unfold busRead
  cases accessed off size with
  | none => exact ⟨.busErr, s.draws, rfl⟩
  | some r =>
    cases r with
    | ctrl => exact ⟨_, s.draws, rfl⟩
    | status => exact ⟨_, s.draws, rfl⟩
    | cmd => exact ⟨_, s.draws, rfl⟩
    | id => exact ⟨_, s.draws, rfl⟩
    | state c => exact hdata _
    | key k => exact ⟨_, s.draws, rfl⟩
    | opa => exact ⟨_, s.draws, rfl⟩
    | opb => exact ⟨_, s.draws, rfl⟩
    | result => exact hdata _
    | rkey i => exact hdata _

end Sys2Proof.Machine
end

