-- ==== Sys2Proof/Laws/Exec.lean ====
section
/-! SUPPORT. Every meaning is one `command`: its check, its acceptance, its class and its engine step. What exec can do
is said once here; later proofs cite it and split on the part that matters to them. -/

namespace Sys2Proof.Machine

/-- The check a command makes at its CMD write (R233). -/
def checkOf : Instr → State → Verdict
  | .keyExpand => checkKey
  | .encrypt | .decrypt => checkSchedule
  | .addRoundKey rnd => checkRound rnd
  | .gfMul => checkOpaOpb
  | .sbox | .invSbox => checkOpa
  | .nop | .zeroize | .clearKey | .subBytes | .invSubBytes | .shiftRows | .invShiftRows => noCheck
  | .mixColumns | .invMixColumns | .subWord | .rotWord => noCheck

/-- The state after a command is accepted (R233). -/
def acceptedBy (i : Instr) (s : State) : State :=
  match i with
  | .keyExpand => acceptKeyExpand s
  | j => accept j.opcode j.rndBits (classOf j) s

/-- What a single-operation command does before it completes (R165); the identity for the three others. -/
def primEffect : Instr → State → State
  | .zeroize, s => zeroizeData s
  | .clearKey, s => clearKeys s
  | .subBytes, s => { s with block := subBytesF s.block }
  | .invSubBytes, s => { s with block := invSubBytesF s.block }
  | .shiftRows, s => { s with block := shiftRowsF s.block }
  | .invShiftRows, s => { s with block := invShiftRowsF s.block }
  | .mixColumns, s => { s with block := mixColumnsF s.block }
  | .invMixColumns, s => { s with block := invMixColumnsF s.block }
  | .addRoundKey rnd, s => { s with block := addRoundKeyF s.sched rnd s.block }
  | .gfMul, s => { s with result := zextByte (gmul (lowByte s.opa) (lowByte s.opb)) }
  | .sbox, s => { s with result := zextByte (sbox (lowByte s.opa)) }
  | .invSbox, s => { s with result := zextByte (invSbox (lowByte s.opa)) }
  | .subWord, s => { s with result := subWord s.opa }
  | .rotWord, s => { s with result := rotWord s.opa }
  | .nop, s => s
  | .keyExpand, s => s
  | .encrypt, s => s
  | .decrypt, s => s

/-- The engine step of a command (R188). -/
def engineStepOf (i : Instr) (s : State) : Result :=
  match i with
  | .keyExpand => kexpStep s
  | .encrypt => encStep s
  | .decrypt => decStep s
  | j => .next (complete (primEffect j s))

/-- Every meaning is one `command`. -/
theorem exec_eq_command (i : Instr) (s : State) :
    exec i s = command (checkOf i) (acceptedBy i) (classOf i) (engineStepOf i) s := by
  cases i <;> rfl

theorem exec_of_running {i : Instr} {s : State} (h : Running (classOf i) s) : exec i s = engineStepOf i s := by
  rw [exec_eq_command, command_of_running h]

theorem exec_of_prim {i : Instr} {s : State} (hc : classOf i = .prim) (h : Running .prim s) :
    exec i s = .next (complete (primEffect i s)) := by
  rw [exec_of_running (hc ▸ h)]
  cases i <;> first | rfl | exact nomatch hc

theorem exec_of_pass {i : Instr} {s : State} (h : Idle s) (hc : checkOf i s = .pass) :
    exec i s = .next (acceptedBy i s) := by
  rw [exec_eq_command, command_of_idle_pass h hc]

theorem exec_of_refuse {i : Instr} {s : State} {code : ErrCode} (h : Idle s) (hc : checkOf i s = .refuse code) :
    exec i s = .next (raiseError code s) := by
  rw [exec_eq_command, command_of_idle_refuse h hc]

/-- A check never refuses with the code NONE (R230). -/
theorem checkOf_ne_none (i : Instr) (s : State) : checkOf i s ≠ .refuse .none := by
  cases i <;> simp only [checkOf, checkKey, checkSchedule, checkRound, checkOpaOpb, checkOpa, noCheck]
  all_goals repeat' split
  all_goals exact nofun

/-- The whole of `exec`: if it answers next, the write was refused for a pending error, refused with a code, or accepted,
or the command made an engine step. -/
theorem exec_next {i : Instr} {s t : State} (h : exec i s = .next t) :
    (s.busy = false ∧ s.err = true ∧ t = refusePending s) ∨
      (Idle s ∧ ∃ code, code ≠ .none ∧ checkOf i s = .refuse code ∧ t = raiseError code s) ∨
      (Idle s ∧ checkOf i s = .pass ∧ t = acceptedBy i s) ∨
      (Running (classOf i) s ∧ engineStepOf i s = .next t) := by
  rw [exec_eq_command] at h
  rcases command_next h with ⟨hb, h⟩ | h
  · rcases issue_next h with ⟨he, ht⟩ | ⟨he, hp, ht⟩ | ⟨he, code, hr, ht⟩
    · exact .inl ⟨hb, he, ht⟩
    · exact .inr (.inr (.inl ⟨⟨hb, he⟩, hp, ht⟩))
    · refine .inr (.inl ⟨⟨hb, he⟩, code, fun e => ?_, hr, ht⟩)
      exact checkOf_ne_none i s (e ▸ hr)
  · exact .inr (.inr (.inr h))

/-- The whole of KEY_EXPAND's engine step (R135, R136). -/
theorem kexpStep_next {s t : State} (h : kexpStep s = .next t) :
    ∃ v, variantOf s.xKsize = some v ∧
      ((s.ctr = 0 ∧ t = kexpLoad v s) ∨
        (s.ctr ≠ 0 ∧ v.nk ≤ s.ctr.toNat ∧ s.ctr.toNat < v.words ∧ t = kexpWord v s.ctr.toNat s)) := by
  unfold kexpStep at h
  cases hv : variantOf s.xKsize with
  | none => simp [hv] at h
  | some v =>
    refine ⟨v, rfl, ?_⟩
    simp only [hv] at h
    split at h
    · rename_i hc
      exact .inl ⟨hc, (Host.Outcome.next.inj h).symm⟩
    · rename_i hc
      split at h
      · rename_i hr
        exact .inr ⟨hc, hr.1, hr.2, (Host.Outcome.next.inj h).symm⟩
      · exact nomatch h

/-- The word step writes one schedule word and either counts on or completes (R136, R137). -/
theorem kexpWord_eq (v : Variant) (i : Nat) (s : State) :
    kexpWord v i s =
      (if i = v.words - 1 then
        completeKeyExpand
          { s with
            sched := s.sched.setIfInBounds i
              (nextWord v i (schedWord s.sched (i - 1)) (schedWord s.sched (i - v.nk))) }
      else
        { s with
          sched := s.sched.setIfInBounds i
            (nextWord v i (schedWord s.sched (i - 1)) (schedWord s.sched (i - v.nk)))
          ctr := BitVec.ofNat 6 (i + 1) }) := rfl

/-- The engine steps of ENCRYPT and DECRYPT write S, and count on or complete (R183, R185). -/
theorem encStep_next {s t : State} (h : encStep s = .next t) :
    ∃ v b, variantOf s.schedKsize = some v ∧
      ((s.ctr.toNat < v.nr ∧ t = roundStep b s) ∨ (s.ctr.toNat = v.nr ∧ t = complete { s with block := b })) := by
  unfold encStep at h
  cases hv : variantOf s.schedKsize with
  | none => simp [hv] at h
  | some v =>
    have hk : 0 < v.nr := by cases v <;> decide
    simp only [hv] at h
    split at h
    · exact ⟨v, _, rfl, .inl ⟨by omega, (Host.Outcome.next.inj h).symm⟩⟩
    split at h
    · exact ⟨v, _, rfl, .inl ⟨by assumption, (Host.Outcome.next.inj h).symm⟩⟩
    split at h
    · exact ⟨v, _, rfl, .inr ⟨by assumption, (Host.Outcome.next.inj h).symm⟩⟩
    · exact nomatch h

theorem decStep_next {s t : State} (h : decStep s = .next t) :
    ∃ v b, variantOf s.schedKsize = some v ∧
      ((s.ctr.toNat < v.nr ∧ t = roundStep b s) ∨ (s.ctr.toNat = v.nr ∧ t = complete { s with block := b })) := by
  unfold decStep at h
  cases hv : variantOf s.schedKsize with
  | none => simp [hv] at h
  | some v =>
    have hk : 0 < v.nr := by cases v <;> decide
    simp only [hv] at h
    split at h
    · exact ⟨v, _, rfl, .inl ⟨by omega, (Host.Outcome.next.inj h).symm⟩⟩
    split at h
    · exact ⟨v, _, rfl, .inl ⟨by assumption, (Host.Outcome.next.inj h).symm⟩⟩
    split at h
    · exact ⟨v, _, rfl, .inr ⟨by assumption, (Host.Outcome.next.inj h).symm⟩⟩
    · exact nomatch h

end Sys2Proof.Machine
end

