-- ==== Sys2Proof/Laws/HostProgram.lean ====
section
/-! SUPPORT. What the host side can do: its next access, its turn, and the end of a run (R281). -/

namespace Sys2Proof.Machine

variable {h h' : HostAgent} {s s' : State}

/-- The line control flow has reached after k control lines. -/
def HostAgent.controlIter (h : HostAgent) (line : Nat) : Nat → Option Nat
  | 0 => some line
  | k + 1 => (h.controlIter line k).bind h.controlFrom

/-- Control flow leaves only lines that are no access. -/
theorem controlFrom_not_access {line next : Nat} (hc : h.controlFrom line = some next) :
    ∃ l, h.program[line]? = some l ∧ l.isAccess = false := by
  unfold HostAgent.controlFrom at hc
  cases hl : h.program[line]? with
  | none => simp [hl] at hc
  | some l => cases l <;> simp [hl, HostLine.isAccess] at hc ⊢

/-- One control line uses one unit of fuel. -/
theorem accessFrom_of_control {line next : Nat} (hc : h.controlFrom line = some next) (fuel : Nat) :
    h.accessFrom (fuel + 1) line = h.accessFrom fuel next := by
  obtain ⟨l, hl, ha⟩ := controlFrom_not_access hc
  simp only [HostAgent.accessFrom, hl, ha, hc, Bool.false_eq_true, if_false]

theorem accessFrom_of_iter {line pos : Nat} :
    ∀ {k : Nat}, h.controlIter line k = some pos → ∀ fuel, h.accessFrom (fuel + k) line = h.accessFrom fuel pos := by
  intro k
  induction k generalizing pos with
  | zero =>
    intro hk fuel
    cases hk
    rfl
  | succ k ih =>
    intro hk fuel
    obtain ⟨mid, hm, hc⟩ := Option.bind_eq_some_iff.mp hk
    rw [show fuel + (k + 1) = fuel + 1 + k by omega, ih hm, accessFrom_of_control hc]

/-- The whole of `accessFrom`: the access is found at once, or one control line further. -/
theorem accessFrom_some {fuel line a : Nat} (ha : h.accessFrom fuel line = some a) :
    ∃ n, fuel = n + 1 ∧ line < h.program.length ∧
      ((a = line ∧ ∃ l, h.program[line]? = some l ∧ l.isAccess = true) ∨
        ∃ next, h.controlFrom line = some next ∧ h.accessFrom n next = some a) := by
  cases fuel with
  | zero => exact nomatch ha
  | succ n =>
    refine ⟨n, rfl, ?_⟩
    simp only [HostAgent.accessFrom] at ha
    cases hl : h.program[line]? with
    | none => simp [hl] at ha
    | some l =>
      refine ⟨(List.getElem?_eq_some_iff.mp hl).1, ?_⟩
      simp only [hl] at ha
      split at ha
      · exact .inl ⟨(Option.some.inj ha).symm, l, rfl, by assumption⟩
      · split at ha
        · exact nomatch ha
        · exact .inr ⟨_, by assumption, ha⟩

/-- What control flow reaches is an access of the program. -/
theorem accessFrom_is_access {fuel line a : Nat} (ha : h.accessFrom fuel line = some a) :
    ∃ l, h.program[a]? = some l ∧ l.isAccess = true := by
  induction fuel generalizing line with
  | zero => exact nomatch ha
  | succ n ih =>
    obtain ⟨m, hm, -, ⟨rfl, hl⟩ | ⟨next, -, hn⟩⟩ := accessFrom_some ha
    · exact hl
    · cases hm
      exact ih hn

/-- More fuel finds the same access. -/
theorem accessFrom_succ {fuel line a : Nat} (ha : h.accessFrom fuel line = some a) :
    h.accessFrom (fuel + 1) line = some a := by
  induction fuel generalizing line with
  | zero => exact nomatch ha
  | succ n ih =>
    obtain ⟨m, hm, -, ⟨rfl, l, hl, hacc⟩ | ⟨next, hc, hn⟩⟩ := accessFrom_some ha
    · simp only [HostAgent.accessFrom, hl, hacc, if_true]
    · cases hm
      rw [accessFrom_of_control hc, ih hn]

theorem accessFrom_mono {fuel more line a : Nat} (hle : fuel ≤ more) (ha : h.accessFrom fuel line = some a) :
    h.accessFrom more line = some a := by
  induction hle with
  | refl => exact ha
  | step _ ih => exact accessFrom_succ ih

/-- Where an access is found with fuel n and not with less, control flow visits n lines of the program. -/
theorem controlIter_of_minimal {fuel line a : Nat} (ha : h.accessFrom fuel line = some a)
    (hmin : ∀ m, m < fuel → h.accessFrom m line ≠ some a) :
    ∀ k, k < fuel → ∃ pos, h.controlIter line k = some pos ∧ pos < h.program.length ∧
      h.accessFrom (fuel - k) pos = some a := by
  intro k
  induction k with
  | zero =>
    intro _
    obtain ⟨_, _, hlt, _⟩ := accessFrom_some ha
    exact ⟨line, rfl, hlt, ha⟩
  | succ k ih =>
    intro hk
    obtain ⟨pos, hp, -, hf⟩ := ih (by omega)
    obtain ⟨n, hn, hlt, ⟨rfl, l, hl, hacc⟩ | ⟨next, hc, hnext⟩⟩ := accessFrom_some hf
    · refine absurd ?_ (hmin (1 + k) (by omega))
      rw [accessFrom_of_iter hp]
      simp only [HostAgent.accessFrom, hl, hacc, if_true]
    · obtain ⟨_, _, hlt', _⟩ := accessFrom_some hnext
      refine ⟨next, ?_, hlt', ?_⟩
      · simp only [HostAgent.controlIter, hp, Option.bind_some, hc]
      · rw [show fuel - (k + 1) = n by omega]
        exact hnext

/-- As many lines as the program has are enough to find an access: with more, control flow would visit a line twice, and
what is found from the second visit is found from the first. -/
theorem accessFrom_bounded {fuel line a : Nat} (ha : h.accessFrom fuel line = some a) :
    h.accessFrom h.program.length line = some a := by
  classical
  have hex : ∃ n, h.accessFrom n line = some a := ⟨fuel, ha⟩
  obtain ⟨n, hn, hmin⟩ : ∃ n, h.accessFrom n line = some a ∧ ∀ m, m < n → h.accessFrom m line ≠ some a :=
    ⟨Nat.find hex, Nat.find_spec hex, fun _ => Nat.find_min hex⟩
  by_cases hle : n ≤ h.program.length
  · exact accessFrom_mono hle hn
  exfalso
  choose pos hpos hlt hfind using controlIter_of_minimal hn hmin
  obtain ⟨i, j, hne, heq⟩ := Fintype.exists_ne_map_eq_of_card_lt
    (fun k : Fin n => (⟨pos k k.isLt, hlt k k.isLt⟩ : Fin h.program.length)) (by simpa using hle)
  have hsame : pos i i.isLt = pos j j.isLt := congrArg Fin.val heq
  have shorter : ∀ p q : Fin n, p < q → pos p p.isLt = pos q q.isLt → False := fun p q hpq he => by
    refine hmin (n - q + p) (by have := q.isLt; omega) ?_
    rw [accessFrom_of_iter (hpos p p.isLt), he]
    exact hfind q q.isLt
  rcases lt_or_gt_of_ne hne with hij | hji
  · exact shorter i j hij hsame
  · exact shorter j i hji hsame.symm

/-- `nextAccess` misses no access: what any number of control lines reaches, it reaches. -/
theorem accessFrom_le_nextAccess {fuel a : Nat} (ha : h.accessFrom fuel h.line = some a) : h.nextAccess = some a :=
  accessFrom_bounded ha

/-- The host has performed its last access exactly when no number of control lines reaches another one (R281). -/
theorem nextAccess_eq_none_iff : h.nextAccess = none ↔ ∀ fuel, h.accessFrom fuel h.line = none := by
  refine ⟨fun hn fuel => ?_, fun hall => hall _⟩
  cases ha : h.accessFrom fuel h.line with
  | none => rfl
  | some a => exact nomatch (accessFrom_le_nextAccess ha).symm.trans hn

theorem runEnded_iff : runEnded h s = true ↔ h.nextAccess = none ∧ s.busy = false := by
  simp [runEnded]

@[simp] theorem HostAgent.bind_program (name : Option String) (s : State) : (h.bind name s).program = h.program := by
  unfold HostAgent.bind
  split <;> rfl

@[simp] theorem HostAgent.bind_line (name : Option String) (s : State) : (h.bind name s).line = h.line := by
  unfold HostAgent.bind
  split <;> rfl

/-- The whole of a HOST turn: one access, the next one of the program, and the line after it. -/
theorem hostTurn_some (ht : hostTurn h s = some (h', s')) :
    ∃ line, h.nextAccess = some line ∧ h'.program = h.program ∧ h'.line = line + 1 ∧
      ((∃ r v, h.program[line]? = some (.wr r v) ∧ busWrite r.offset 4 v s = .next s' ∧ h'.bound = h.bound) ∨
        ∃ r name, h.program[line]? = some (.rd r name) ∧ s' = busRead r.offset 4 s ∧
          h' = { h with line := line + 1 }.bind name s') := by
  unfold hostTurn at ht
  cases hn : h.nextAccess with
  | none => simp [hn] at ht
  | some line =>
    refine ⟨line, rfl, ?_⟩
    simp only [hn] at ht
    cases hl : h.program[line]? with
    | none => simp [hl] at ht
    | some l =>
      simp only [hl] at ht
      cases l with
      | wr r v =>
        simp only at ht
        cases hb : busWrite r.offset 4 v s with
        | next t =>
          simp only [hb, Option.some.injEq, Prod.mk.injEq] at ht
          obtain ⟨rfl, rfl⟩ := ht
          exact ⟨rfl, rfl, .inl ⟨r, v, rfl, hb, rfl⟩⟩
        | fault f => simp [hb] at ht
        | refused f => simp [hb] at ht
      | rd r name =>
        simp only [Option.some.injEq, Prod.mk.injEq] at ht
        obtain ⟨rfl, rfl⟩ := ht
        exact ⟨HostAgent.bind_program _ _, HostAgent.bind_line _ _, .inr ⟨r, name, rfl, rfl, rfl⟩⟩
      | label l => exact nomatch ht
      | bnz x mask l => exact nomatch ht

/-- A run that has ended stays where it ended, whatever turns follow (R281). -/
theorem systemRun_of_ended (he : runEnded h s = true) (turns : List Turn) :
    systemRun turns h s = some (h, s) := by
  cases turns with
  | nil => rfl
  | cons turn rest => simp only [systemRun, he, if_true]

/-- A result is that of an ended run, and further turns do not change it (R281). -/
theorem runResult_append {turns more : List Turn} {r : HostAgent × State} (hr : runResult turns h s = some r) :
    runEnded r.1 r.2 = true ∧ runResult (turns ++ more) h s = some r := by
  obtain ⟨hrun, hend⟩ := Option.filter_eq_some_iff.mp hr
  refine ⟨hend, Option.filter_eq_some_iff.mpr ⟨?_, hend⟩⟩
  clear hr
  induction turns generalizing h s with
  | nil =>
    cases hrun
    exact systemRun_of_ended hend _
  | cons turn rest ih =>
    by_cases he : runEnded h s = true
    · rw [systemRun_of_ended he] at hrun
      rw [systemRun_of_ended he, hrun]
    · simp only [List.cons_append, systemRun, he] at hrun ⊢
      cases ht : systemTurn turn h s with
      | none => simp [ht] at hrun
      | some p =>
        simp only [ht] at hrun ⊢
        exact ih hrun

end Sys2Proof.Machine
end

