-- ==== Sys2Proof/Laws/Invariant.lean ====
section
/-! SUPPORT. What the invariants of Safety rest on, so that a proof about a step looks only at what that step writes. -/

namespace Sys2Proof.Machine

variable {s : State}

/-- The invariant does not see the model's own fields. -/
theorem Inv.env (h : Inv s) (es : List Event) (rs : List Response) (n : Nat) :
    Inv { s with events := es, responses := rs, draws := n } :=
  ⟨h.busy_iff, h.no_error, h.error, h.sched_size, h.latched, h.progress⟩

/-- Recording an error keeps the invariant (R231). -/
theorem Inv.raise (h : Inv s) {code : ErrCode} (hc : code ≠ .none) : Inv (raiseError code s) := by
  cases he : s.err with
  | true =>
    rw [raiseError_of_error he]
    exact ⟨h.busy_iff, by simp [he], h.error, h.sched_size, h.latched, h.progress⟩
  | false =>
    rw [raiseError_of_no_error he]
    exact ⟨h.busy_iff, by simp, fun _ => hc, h.sched_size, h.latched, h.progress⟩

/-- A state with an idle engine meets the invariant when its error record and its schedule's size do. -/
theorem Inv.of_idle (hb : s.busy = false) (hf : s.fsm = .idle)
    (h1 : s.err = false → s.errCode = .none ∧ s.errOvf = false) (h2 : s.err = true → s.errCode ≠ .none)
    (h3 : s.schedKsize ≠ 3) : Inv s :=
  ⟨by simp [hb, hf], h1, h2, h3, by simp [hb], by simp [ProgressOk, hf]⟩

/-- Under the invariant BUSY = 0 means FSM = IDLE (R42). -/
theorem Inv.fsm_of_not_busy (h : Inv s) (hb : s.busy = false) : s.fsm = .idle := by
  by_contra hf
  rw [h.busy_iff.mpr hf] at hb
  exact nomatch hb

/-- A single-operation command leaves the error record alone (R165). -/
theorem primEffect_error (i : Instr) (s : State) :
    (primEffect i s).err = s.err ∧ (primEffect i s).errOvf = s.errOvf ∧ (primEffect i s).errCode = s.errCode := by
  cases i <;> exact ⟨rfl, rfl, rfl⟩

/-- The key size of the schedule after a single-operation command: as it was, or 0 (R211). -/
theorem primEffect_schedKsize (i : Instr) (s : State) :
    (primEffect i s).schedKsize = s.schedKsize ∨ (primEffect i s).schedKsize = 0 := by
  cases i <;> first | exact .inl rfl | exact .inr rfl

/-- The schedule invariant sees the schedule and the expansion's own registers only. -/
theorem ScheduleInv.congr {t : State} (h : ScheduleInv s) (hw : t.sched = s.sched) (hv : t.schedValid = s.schedValid)
    (hk : t.schedKsize = s.schedKsize) (hf : t.fsm = s.fsm) (hc : t.ctr = s.ctr) (hx : t.xKsize = s.xKsize) :
    ScheduleInv t := by
  refine ⟨?_, ?_⟩
  · rw [hv, hk, hw]
    exact h.valid
  · rw [hf, hc, hx, hw]
    exact h.expanding

end Sys2Proof.Machine
end

