-- ==== Sys2Proof/Laws/PerInstr.lean ====
section
/-! SUPPORT. For every command: the word of a well-formed command selects the command's own row of the opcode map
(R94). -/

namespace Sys2Proof.Laws.TableRow

/-- `encode(i) & mask = match` for the row of i (R94). -/
def Statement (i : Instr) : Prop := i.wellFormed = true → i.row.selects (encode i) = true

theorem nop : Statement .nop := fun _ => by decide

theorem keyExpand : Statement .keyExpand := fun _ => by decide

theorem encrypt : Statement .encrypt := fun _ => by decide

theorem decrypt : Statement .decrypt := fun _ => by decide

theorem zeroize : Statement .zeroize := fun _ => by decide

theorem clearKey : Statement .clearKey := fun _ => by decide

theorem subBytes : Statement .subBytes := fun _ => by decide

theorem invSubBytes : Statement .invSubBytes := fun _ => by decide

theorem shiftRows : Statement .shiftRows := fun _ => by decide

theorem invShiftRows : Statement .invShiftRows := fun _ => by decide

theorem mixColumns : Statement .mixColumns := fun _ => by decide

theorem invMixColumns : Statement .invMixColumns := fun _ => by decide

theorem addRoundKey (rnd : Nat) : Statement (.addRoundKey rnd) := fun h => by
  have bound : rnd < 16 := Nat.lt_succ_of_le (of_decide_eq_true h)
  have all : ∀ n : Fin 16, (Instr.addRoundKey n).row.selects (encode (.addRoundKey n)) = true := by decide
  exact all ⟨rnd, bound⟩

theorem gfMul : Statement .gfMul := fun _ => by decide

theorem sbox : Statement .sbox := fun _ => by decide

theorem invSbox : Statement .invSbox := fun _ => by decide

theorem subWord : Statement .subWord := fun _ => by decide

theorem rotWord : Statement .rotWord := fun _ => by decide

end Sys2Proof.Laws.TableRow
end

