-- ==== Sys2Proof/Tests/Slice0.lean ====
section
/-! SUPPORT. Small tests: the well-formedness check, the decoder on words written out from R94, one step of each command
and of the bus with the values of 95_test_vectors.md, and for each statement a state that meets its hypotheses. -/

namespace Sys2Proof.Tests

open Sys2Proof Sys2Proof.Machine

/-! ## Helpers -/

/-- The state a step answers. -/
def nextOf (r : Machine.Result) : Option State :=
  match r with
  | .next t => some t
  | .fault _ => none
  | .refused _ => none

/-- `f` of the state the step of one input answers. -/
def after {α : Type} (e : Event) (s : State) (f : State → α) : Option α :=
  (nextOf (step { s with events := [e] })).map f

/-- An engine that has just accepted command i, everything else as in s. -/
def inProgress (i : Instr) (s : State) : State :=
  { s with busy := true, done := false, fsm := classOf i, curOp := i.opcode, curRnd := i.rndBits, ctr := 0 }

/-- `f` of the state after one engine step of command i. -/
def ran {α : Type} (i : Instr) (s : State) (f : State → α) : Option α :=
  (nextOf (step (inProgress i s))).map f

/-- The block whose STATE words are given (R35). -/
def blockOf (w0 w1 w2 w3 : Word) : Block :=
  Block.ofFn fun r c => byteOf (match c with | 0 => w0 | 1 => w1 | 2 => w2 | 3 => w3) r

/-- The four STATE words of S (R35). -/
def stateWords (s : State) : List Word := (List.finRange 4).map s.block.stateWord

/-- The block A of L2-ST. -/
def blockA : State :=
  { State.reset with block := blockOf 0x00010203 0x04050607 0x08090A0B 0x0C0D0E0F }

/-- The block B of L2-ST. -/
def blockB : State :=
  { State.reset with block := blockOf 0x00102030 0x40506070 0x8090A0B0 0xC0D0E0F0 }

/-- Round keys 1 and 9 of the AES-128 schedule of L2-KS1, and the word of KEY3. -/
def sched128 : Vector Word 60 :=
  let w := Vector.replicate 60 (0 : Word)
  let w := ((((w.set 0 0x00010203).set 1 0x04050607).set 2 0x08090A0B).set 3 0x0C0D0E0F)
  let w := ((((w.set 4 0xD6AA74FD).set 5 0xD2AF72FA).set 6 0xDAA678F1).set 7 0xD6AB76FE)
  (((w.set 36 0x549932D1).set 37 0xF0855768).set 38 0x1093ED9C).set 39 0xBE2C974E

/-- s with a schedule of size 0 that counts as valid. -/
def scheduled (s : State) : State := { s with sched := sched128, schedValid := true }

/-- An idle engine with an error recorded. -/
def pendingError : State := { State.reset with err := true, errCode := .illegalCmd }

/-! ## Well-formedness -/

theorem test_wellFormed_refuses_round_sixteen : (Instr.addRoundKey 16).wellFormed = false := by decide

theorem test_wellFormed_takes_round_fifteen : (Instr.addRoundKey 15).wellFormed = true := by decide

/-! ## Decoding: the words of the opcode map R94 and of L2-DEC -/

theorem test_decode_control :
    decode 0x00000000 = .ok .nop ∧ decode 0x00000004 = .ok .zeroize ∧ decode 0x00000005 = .ok .clearKey := by decide

theorem test_decode_multi_step :
    decode 0x00000001 = .ok .keyExpand ∧ decode 0x00000002 = .ok .encrypt ∧ decode 0x00000003 = .ok .decrypt := by
  decide

theorem test_decode_transforms :
    decode 0x00000010 = .ok .subBytes ∧ decode 0x00000011 = .ok .invSubBytes ∧ decode 0x00000012 = .ok .shiftRows ∧
    decode 0x00000013 = .ok .invShiftRows ∧ decode 0x00000014 = .ok .mixColumns ∧
    decode 0x00000015 = .ok .invMixColumns := by decide

theorem test_decode_add_round_key :
    decode 0x00000016 = .ok (.addRoundKey 0) ∧ decode 0x00000316 = .ok (.addRoundKey 3) ∧
    decode 0x00000F16 = .ok (.addRoundKey 15) := by decide

theorem test_decode_field_and_words :
    decode 0x00000020 = .ok .gfMul ∧ decode 0x00000021 = .ok .sbox ∧ decode 0x00000022 = .ok .invSbox ∧
    decode 0x00000023 = .ok .subWord ∧ decode 0x00000024 = .ok .rotWord := by decide

theorem test_decode_reserved_opcodes :
    ([0x06, 0x0F, 0x17, 0x1F, 0x25, 0xFF] : List Word).all (fun c => decode c = .error .reservedOpcode) = true := by
  decide

theorem test_decode_reserved_bits :
    ([0x00001016, 0x80000000, 0x80000002, 0x00010016, 0xFFFFFFFF] : List Word).all
      (fun c => decode c = .error .reservedBits) = true := by decide

theorem test_decode_rnd_elsewhere :
    ([0x00000100, 0x00000101, 0x00000A02] : List Word).all (fun c => decode c = .error .rndNotZero) = true := by decide

theorem test_encode_words :
    encode (.addRoundKey 11) = 0x00000B16 ∧ encode .gfMul = 0x00000020 ∧ encode .encrypt = 0x00000002 := by decide

theorem test_decodeTableWord :
    decodeTableWord 32 0xB16 = some (.addRoundKey 11) ∧ decodeTableWord 32 0x06 = none := by decide

theorem test_withFetchWord_runs_the_command :
    (nextOf (step (State.reset.withFetchWord 32 0x12))).map (fun t => (t.curOp, t.busy, t.fsm)) =
      some (0x12, true, .prim) := by decide

/-- R99: the assembler on text. -/
theorem test_assembleText :
    assembleText ['A', 'D', 'D', '_', 'R', 'O', 'U', 'N', 'D', '_', 'K', 'E', 'Y', ' ', '0', 'x', 'A'] =
      some (.addRoundKey 10) ∧
    assembleText ['S', 'B', 'O', 'X', ' ', '1'] = none ∧ assembleText ['S', 'B', 'O', 'X'] = some .sbox := by decide

/-! ## One step of each command (L2-CTL, L2-GF, L2-SB, L2-WORD, L2-ST, L2-KS, L2-C128, L2-ERR) -/

theorem test_nop_keeps_result :
    ran .nop { scheduled blockA with result := 0xC1, keyWr := 0x0F } (fun t => (statusWord t, t.result)) =
      some (0x00000F12, 0xC1) := by decide

theorem test_zeroize_clears :
    ran .zeroize { scheduled blockA with keyWr := 0x0F, opa := 0x57, irqEn := true }
      (fun t => (statusWord t, t.opa, stateWords t, t.sched.toList[4]?, irq t)) =
      some (0x00000002, 0, [0, 0, 0, 0], some 0, true) := by decide

theorem test_clear_key_keeps_schedule :
    ran .clearKey { scheduled blockA with keyWr := 0x0F, key := Vector.replicate 8 7 }
      (fun t => (statusWord t, t.key.toList, t.sched.toList[4]?)) =
      some (0x00000012, [0, 0, 0, 0, 0, 0, 0, 0], some 0xD6AA74FD) := by decide

theorem test_sub_bytes :
    ran .subBytes blockA stateWords = some [0x637C777B, 0xF26B6FC5, 0x3001672B, 0xFED7AB76] := by decide

theorem test_inv_sub_bytes :
    ran .invSubBytes blockA stateWords = some [0x52096AD5, 0x3036A538, 0xBF40A39E, 0x81F3D7FB] := by decide

theorem test_shift_rows :
    ran .shiftRows blockA stateWords = some [0x00050A0F, 0x04090E03, 0x080D0207, 0x0C01060B] := by decide

theorem test_inv_shift_rows :
    ran .invShiftRows blockA stateWords = some [0x000D0A07, 0x04010E0B, 0x0805020F, 0x0C090603] := by decide

theorem test_mix_columns :
    ran .mixColumns { State.reset with block := blockOf 0xDB135345 0x01000000 0xD4D4D4D5 0x00000001 } stateWords =
      some [0x8E4DA1BC, 0x02010103, 0xD5D5D7D6, 0x01010302] := by decide

theorem test_inv_mix_columns :
    ran .invMixColumns { State.reset with block := blockOf 0xDB135345 0x01000000 0xD4D4D4D5 0x00000001 } stateWords =
      some [0x32A41D55, 0x0E090D0B, 0xDDD9DFDA, 0x090D0B0E] := by decide

theorem test_add_round_key_one :
    ran (.addRoundKey 1) (scheduled blockB) stateWords =
      some [0xD6BA54CD, 0x92FF128A, 0x5A36D841, 0x167B960E] := by decide

/-- L2-ARK: round 11 of an AES-128 schedule is refused. -/
theorem test_add_round_key_range :
    after (.write 0x008 4 0x00000B16) { scheduled State.reset with keyWr := 0x0F, done := true } statusWord =
      some 0x00050F16 := by decide

theorem test_gf_mul :
    ran .gfMul { State.reset with opa := 0x57, opb := 0x83 } (fun t => (t.result, statusWord t)) =
      some (0xC1, 0x00000002) := by decide

theorem test_gf_mul_range :
    after (.write 0x008 4 0x00000020) { State.reset with opa := 0x02, opb := 0x80000000 } statusWord =
      some 0x00060004 := by decide

theorem test_sbox :
    ran .sbox { State.reset with opa := 0x53 } State.result = some 0xED := by decide

theorem test_sbox_range :
    after (.write 0x008 4 0x00000021) { State.reset with opa := 0x153 } statusWord = some 0x00060004 := by decide

theorem test_inv_sbox :
    ran .invSbox { State.reset with opa := 0xED } State.result = some 0x53 := by decide

theorem test_inv_sbox_range :
    after (.write 0x008 4 0x00000022) { State.reset with opa := 0x80000000 } statusWord = some 0x00060004 := by decide

theorem test_sub_word :
    ran .subWord { State.reset with opa := 0x00102030 } State.result = some 0x63CAB704 := by decide

theorem test_rot_word :
    ran .rotWord { State.reset with opa := 0x09CF4F3C } State.result = some 0xCF4F3C09 := by decide

/-- KEY_EXPAND past its load step, at index i, with key size xk, and the words it reads. -/
def expandingAt (i : Nat) (xk : BitVec 2) (w : Vector Word 60) : State :=
  { inProgress .keyExpand State.reset with ctr := BitVec.ofNat 6 i, xKsize := xk, sched := w }

/-- L2-KS1, step i = 4. -/
theorem test_key_expand_word_four :
    (nextOf (step (expandingAt 4 0 ((sched128.set 4 0).set 5 0)))).map (fun t => (t.sched.toList[4]?, t.ctr)) =
      some (some 0xD6AA74FD, 5) := by decide

/-- L2-KS3, step i = 12: the SubWord-only branch. -/
theorem test_key_expand_word_twelve :
    (nextOf (step (expandingAt 12 2 ((sched128.set 11 0xA572C09C).set 4 0x10111213)))).map
      (fun t => t.sched.toList[12]?) = some (some 0x1651A8CD) := by decide

/-- L2-C128, the step with CTR = 1 of ENCRYPT. -/
theorem test_encrypt_round_one :
    (nextOf (step { inProgress .encrypt (scheduled blockB) with ctr := 1 })).map (fun t => (stateWords t, t.ctr)) =
      some ([0x89D810E8, 0x855ACE68, 0x2D1843D8, 0xCB128FE4], 2) := by decide

/-- L2-C128, the step with CTR = 1 of DECRYPT: inverse round 9. -/
theorem test_decrypt_round_nine :
    (nextOf (step
      { inProgress .decrypt (scheduled State.reset) with
        ctr := 1, block := blockOf 0x7AD5FDA7 0x89EF4E27 0x2BCA100B 0x3D9FF59F })).map stateWords =
      some [0x54D990A1, 0x6BA09AB5, 0x96BBF40E, 0xA111702F] := by decide

/-- L2-CX: ENCRYPT and DECRYPT without a schedule. -/
theorem test_cipher_without_schedule :
    after (.write 0x008 4 0x00000002) State.reset statusWord = some 0x00040004 ∧
    after (.write 0x008 4 0x00000003) State.reset statusWord = some 0x00040004 := by decide

/-- L2-KS-ERR: key size 3, and more key words than Nk. -/
theorem test_key_expand_refusals :
    after (.write 0x008 4 0x00000001) { State.reset with ksize := 3, keyWr := 0xFF } statusWord = some 0x0002FF04 ∧
    after (.write 0x008 4 0x00000001) { State.reset with keyWr := 0xFF } statusWord = some 0x0003FF04 := by decide

/-! ## The bus (L2-BUS, L2-BUSY, L2-ERR, L2-RST) -/

theorem test_id_read_while_busy :
    after (.read 0x00C 4) (inProgress .nop State.reset) State.responses = some [.data 0x41455307] := by decide

theorem test_bus_errors :
    after (.read 0x04C 4) State.reset State.responses = some [.busErr] ∧
    after (.write 0x1F0 4 0) State.reset State.responses = some [.busErr] ∧
    after (.read 0xFFC 4) State.reset State.responses = some [.busErr] ∧
    after (.write 0x012 4 5) State.reset State.responses = some [.busErr] ∧
    after (.read 0x000 2) State.reset State.responses = some [.busErr] := by decide

theorem test_ctrl_write_of_ones :
    after (.write 0x000 4 0x000000FF) State.reset (fun t => (t.ksize, t.irqEn, ctrlWord t)) =
      some (3, true, 0x00000007) := by decide

theorem test_busy_write_is_dropped :
    after (.write 0x010 4 0xDEADBEEF) { inProgress .encrypt (scheduled blockA) with keyWr := 0x0F }
      (fun t => (statusWord t, stateWords t)) =
      some (0x00070F15, [0x00010203, 0x04050607, 0x08090A0B, 0x0C0D0E0F]) := by decide

theorem test_second_error_overflows :
    after (.write 0x008 4 0x00000000) { scheduled State.reset with err := true, errCode := .busy, done := true, keyWr := 0x0F }
      statusWord = some 0x00070F1E := by decide

theorem test_ack :
    after (.write 0x004 4 0x00000006)
      { scheduled State.reset with err := true, errOvf := true, errCode := .busy, done := true, keyWr := 0x0F }
      statusWord = some 0x00000F10 := by decide

theorem test_soft_reset_aborts :
    after (.write 0x000 4 0x80000000) (inProgress .encrypt (scheduled blockA))
      (fun t => (statusWord t, stateWords t, t.sched.toList[4]?, t.busy)) =
      some (0x00000000, [0, 0, 0, 0], some 0, false) := by decide

theorem test_key_write_sets_its_bit :
    after (.write 0x02C 4 0x0C0D0E0F) { State.reset with keyWr := 0x07 } (fun t => (t.keyWr, t.key.toList[3]?)) =
      some (0x0F, some 0x0C0D0E0F) := by decide

/-- A host program that polls STATUS (R101, WAIT), after a read that returned w. -/
def polling (w : Word) : HostAgent := ⟨waitLines "p", 2, [("t", w)]⟩

/-- R101: `SETKS` with IRQ_EN, and a poll loop that reads STATUS again while BUSY was 1. -/
theorem test_host_lines :
    (Pseudo.setKs true 2).expand = [.wr .ctrl 0x00000006] ∧ (polling 0x1).nextAccess = some 1 := by decide

/-- R281: after the read that returned BUSY = 0 the last access is done, so the run has ended, and a later reset is no part
of it. -/
theorem test_run_ends_at_last_access :
    runEnded (polling 0x2) State.reset = true ∧ runEnded (polling 0x2) (inProgress .nop State.reset) = false ∧
    runEnded (polling 0x1) State.reset = false ∧
    (runResult [.reset] (polling 0x2) { State.reset with done := true }).map (fun r => r.2.done) = some true := by
  decide

/-! ## Witnesses: for each statement with hypotheses, a state and operands that meet them -/

/-- IllegalWordsAreRefused, PlainCommandsAreAccepted and others. -/
theorem idle_reset : Idle State.reset := ⟨rfl, rfl⟩

theorem idle_with_schedule : Idle (scheduled blockA) := ⟨rfl, rfl⟩

theorem inv_reset : Inv State.reset := Inv.of_idle rfl rfl (fun _ => ⟨rfl, rfl⟩) nofun (by decide)

/-- A command in progress over a state with no error meets the invariant when its latch and its progress are right. -/
theorem inv_in_progress {i : Instr} {s : State} (he : s.err = false) (hc : s.errCode = .none) (ho : s.errOvf = false)
    (hk : s.schedKsize ≠ 3) (hf : classOf i ≠ .idle) (hl : latchedCommand (inProgress i s) = some i)
    (hp : ProgressOk (inProgress i s)) : Inv (inProgress i s) where
  busy_iff := ⟨fun _ => hf, fun _ => rfl⟩
  no_error := fun _ => ⟨hc, ho⟩
  error := fun h => nomatch he.symm.trans h
  sched_size := hk
  latched := fun _ => ⟨i, hl, rfl⟩
  progress := hp

/-- A control command in progress. -/
theorem inv_nop : Inv (inProgress .nop State.reset) := by
  have hl : latchedCommand (inProgress .nop State.reset) = some .nop := by decide
  refine inv_in_progress rfl rfl rfl (by decide) (by decide) hl fun rnd h => ?_
  rw [hl] at h
  exact nomatch h

/-- ADD_ROUND_KEY in progress at the last round of its schedule. -/
theorem inv_add_round_key : Inv (inProgress (.addRoundKey 10) (scheduled blockA)) := by
  have hl : latchedCommand (inProgress (.addRoundKey 10) (scheduled blockA)) = some (.addRoundKey 10) := by decide
  refine inv_in_progress rfl rfl rfl (by decide) (by decide) hl fun rnd h => ⟨rfl, .aes128, rfl, ?_⟩
  rw [hl] at h
  cases h
  decide

/-- KEY_EXPAND in progress, before its load step. -/
theorem inv_key_expand : Inv (inProgress .keyExpand State.reset) :=
  inv_in_progress rfl rfl rfl (by decide) (by decide) (by decide) ⟨rfl, .aes128, rfl, .inl rfl⟩

/-- ENCRYPT in progress, before its first engine step. -/
theorem inv_encrypt : Inv (inProgress .encrypt (scheduled blockA)) :=
  inv_in_progress rfl rfl rfl (by decide) (by decide) (by decide) ⟨rfl, .aes128, rfl, by decide⟩

/-- DECRYPT in progress, before its first engine step. -/
theorem inv_decrypt : Inv (inProgress .decrypt (scheduled blockA)) :=
  inv_in_progress rfl rfl rfl (by decide) (by decide) (by decide) ⟨rfl, .aes128, rfl, by decide⟩

theorem witness_ResetsReachResetValues :
    (∃ (s : State) (rest : List Event), s.events = .reset :: rest ∧ s.busy = true) ∧
    (∃ (s : State) (rest : List Event) (v : Word), s.events = .write 0x000 4 v :: rest ∧ v.getLsbD 31 = true ∧ s.busy = true) :=
  ⟨⟨{ inProgress .nop State.reset with events := [.reset] }, [], rfl, rfl⟩,
   { inProgress .nop State.reset with events := [.write 0x000 4 0x80000000] }, [], 0x80000000, rfl, by decide, rfl⟩

theorem witness_DecodeEncodeAgree :
    (Instr.addRoundKey 15).wellFormed = true ∧ decode 0x00000F16 = .ok (.addRoundKey 15) := by decide

theorem witness_OpcodeMapSelectsTheDecodedCommand :
    decode 0x00000B16 = .ok (.addRoundKey 11) ∧ (Instr.addRoundKey 0).row.selects 0x00000B16 = true := by decide

/-- The illegal words at the boundaries of each clause, and the state they are written in. -/
theorem witness_IllegalWordsAreRefused :
    ((0x00001000 : Word).extractLsb' 12 20 ≠ 0 ∧ (0x80000000 : Word).extractLsb' 12 20 ≠ 0) ∧
    ((0x00000100 : Word).extractLsb' 8 4 ≠ 0 ∧ ((0x00000100 : Word).extractLsb' 0 8).toNat ≠ 0x16) ∧
    ((0x00000006 : Word).extractLsb' 0 8).toNat = 0x06 ∧ ((0x0000000F : Word).extractLsb' 0 8).toNat = 0x0F ∧
    ((0x00000017 : Word).extractLsb' 0 8).toNat = 0x17 ∧ ((0x0000001F : Word).extractLsb' 0 8).toNat = 0x1F ∧
    ((0x00000025 : Word).extractLsb' 0 8).toNat = 0x25 := by decide

theorem witness_AssemblerTakesTheTableSyntax : Instr.rotWord ∈ plainCommands ∧ 15 ≤ 15 ∧ 15 < 16 := by decide

theorem witness_PlainCommandsAreAccepted : Idle State.reset := idle_reset

/-- Key size 3, a key of the wrong length, and the exact key of each size. -/
theorem witness_KeyExpandIsCheckedThenAccepted :
    (Idle { State.reset with ksize := 3 }) ∧ (Idle { State.reset with keyWr := 0x1F }) ∧
    (Idle { State.reset with keyWr := 0x0F }) ∧ (Idle { State.reset with ksize := 1, keyWr := 0x3F }) ∧
    (Idle { State.reset with ksize := 2, keyWr := 0xFF }) :=
  ⟨⟨rfl, rfl⟩, ⟨rfl, rfl⟩, ⟨rfl, rfl⟩, ⟨rfl, rfl⟩, rfl, rfl⟩

theorem witness_CipherCommandsNeedASchedule :
    (Idle State.reset ∧ State.reset.schedValid = false) ∧
    (Idle (scheduled blockA) ∧ (scheduled blockA).schedValid = true) :=
  ⟨⟨idle_reset, rfl⟩, idle_with_schedule, rfl⟩

/-- The three key sizes at their limit and one above it, and the size 3. -/
theorem witness_AddRoundKeyIsCheckedThenAccepted :
    (Idle State.reset ∧ State.reset.schedValid = false) ∧
    (∀ p ∈ [((0 : BitVec 2), 10), (1, 12), (2, 14)],
      p.1 ≠ 3 ∧ p.2 < p.2 + 1 ∧ p.2 + 1 ≤ 15 ∧ Idle { scheduled blockA with schedKsize := p.1 }) ∧
    (Idle { scheduled blockA with schedKsize := 3 }) :=
  ⟨⟨idle_reset, rfl⟩,
   fun p hp => ⟨by revert p; decide, Nat.lt_succ_self _, by revert p; decide, rfl, rfl⟩, rfl, rfl⟩

theorem witness_ByteOperandsAreChecked :
    (Idle { State.reset with opa := 0x100 } ∧ 0xFF < (0x100 : Word).toNat) ∧
    (Idle { State.reset with opb := 0x100 } ∧ 0xFF < (0x100 : Word).toNat) ∧
    (Idle { State.reset with opa := 0xFF, opb := 0xFF } ∧ (0xFF : Word).toNat ≤ 0xFF) :=
  ⟨⟨⟨rfl, rfl⟩, by decide⟩, ⟨⟨rfl, rfl⟩, by decide⟩, ⟨rfl, rfl⟩, by decide⟩

theorem witness_StepRunsTheDecodedCommand :
    (Idle { State.reset with events := [.write 0x008 4 0x00000E16] } ∧
      decode 0x00000E16 = .ok (.addRoundKey 14)) ∧
    (EngineNext (inProgress (.addRoundKey 10) (scheduled blockA)) ∧
      decode (((inProgress (.addRoundKey 10) blockA).curRnd.setWidth 32 <<< 8) |||
        (inProgress (.addRoundKey 10) blockA).curOp.setWidth 32) = .ok (.addRoundKey 10)) ∧
    (EngineNext { inProgress .nop State.reset with events := [.engine] }) :=
  ⟨⟨⟨rfl, rfl⟩, by decide⟩, ⟨.inl rfl, by decide⟩, .inr ⟨[], rfl⟩⟩

theorem witness_PendingErrorRefusesEveryCommand :
    ∃ s : State, s.busy = false ∧ s.err = true ∧ s.events = [.write 0x008 4 0x00000000] :=
  ⟨{ pendingError with events := [.write 0x008 4 0x00000000] }, rfl, rfl, rfl⟩

/-- ControlCommandSteps, SubBytesSteps, ShiftRowsSteps, MixColumnsStep, InvMixColumnsStep, ResultCommandSteps. -/
theorem witness_single_operation_steps : Running .prim (inProgress .subBytes blockA) := ⟨rfl, rfl⟩

/-- Round 14, the last a schedule can have, reads the last word. -/
theorem witness_AddRoundKeyStep :
    Running .prim (inProgress (.addRoundKey 14) (scheduled blockA)) ∧ 14 ≤ 14 ∧ (59 : Fin 60).val = 4 * 14 + 3 :=
  ⟨⟨rfl, rfl⟩, by decide, rfl⟩

theorem witness_FieldLaws : (0x53 : Byte) ≠ 0 ∧ gmul 0x53 0xCA = 0x01 := by decide

theorem witness_RoundConstants : 2 ≤ 10 ∧ rcon 10 = gmul (rcon 9) 0x02 := by decide

theorem witness_KeyExpandLoadStep :
    Running .kexp (inProgress .keyExpand State.reset) ∧ (inProgress .keyExpand State.reset).ctr = 0 ∧
      variantOf (inProgress .keyExpand State.reset).xKsize = some .aes128 ∧
      (3 < Variant.aes128.nk) ∧ (4 * (Variant.aes128.nr + 1) ≤ 44) ∧ (Variant.aes128.nk ≤ 43) :=
  ⟨⟨rfl, rfl⟩, rfl, rfl, by decide, by decide, by decide⟩

/-- The first word step and the last one, the SubWord-only step of AES-256 between them. -/
theorem witness_KeyExpandWordStep :
    (∀ p ∈ [(4, (0 : BitVec 2), Variant.aes128), (43, 0, .aes128), (12, 2, .aes256), (59, 2, .aes256)],
      (expandingAt p.1 p.2.1 sched128).ctr.toNat = p.1 ∧ variantOf p.2.1 = some p.2.2 ∧ p.2.2.nk ≤ p.1 ∧
        p.1 ≤ 4 * (p.2.2.nr + 1) - 1) ∧
    Running .kexp (expandingAt 4 0 sched128) :=
  ⟨by decide, rfl, rfl⟩

theorem witness_EncryptSteps :
    Running .enc (inProgress .encrypt (scheduled blockA)) ∧
      variantOf (inProgress .encrypt (scheduled blockA)).schedKsize = some .aes128 ∧
      (∀ k ∈ [(0 : BitVec 6), 1, 9, 10],
        k = 0 ∨ (1 ≤ k.toNat ∧ k.toNat ≤ Variant.aes128.nr - 1) ∨ k.toNat = Variant.aes128.nr) :=
  ⟨⟨rfl, rfl⟩, rfl, by decide⟩

theorem witness_DecryptSteps :
    Running .dec (inProgress .decrypt (scheduled blockA)) ∧
      variantOf (inProgress .decrypt (scheduled blockA)).schedKsize = some .aes128 ∧
      (∀ k ∈ [(0 : BitVec 6), 1, 9, 10],
        k = 0 ∨ (1 ≤ k.toNat ∧ k.toNat ≤ Variant.aes128.nr - 1) ∨ k.toNat = Variant.aes128.nr) :=
  ⟨⟨rfl, rfl⟩, rfl, by decide⟩

/-- EncryptRunGivesCipher and DecryptRunGivesInvCipher, for the three key sizes. -/
theorem witness_cipher_runs (v : Variant) (c : Word) :
    ∃ s : State, Idle s ∧ s.schedValid = true ∧ variantOf s.schedKsize = some v ∧ s.events = [.write 0x008 4 c] :=
  ⟨{ scheduled blockA with schedKsize := v.bits, events := [.write 0x008 4 c] }, ⟨rfl, rfl⟩, rfl, variantOf_bits v, rfl⟩

theorem witness_KeyExpandRunGivesExpandKey (v : Variant) :
    ∃ s : State, Idle s ∧ variantOf s.ksize = some v ∧ s.keyWr = v.keyMask ∧
      s.events = [.write 0x008 4 0x00000001] :=
  ⟨{ State.reset with ksize := v.bits, keyWr := v.keyMask, events := [.write 0x008 4 0x00000001] },
   ⟨rfl, rfl⟩, variantOf_bits v, rfl, rfl⟩

theorem witness_MultiBlockRoundTrip : ([0x00, 0x01] : List Byte).length % 16 ≠ 0 := by decide

/-- StepKeepsTheInvariant and StepAlwaysGoesOn: a command completes. -/
theorem witness_StepKeepsTheInvariant :
    Inv (inProgress .nop State.reset) ∧
      step (inProgress .nop State.reset) = .next (complete (inProgress .nop State.reset)) := ⟨inv_nop, rfl⟩

/-- The complete schedule of the all-zero AES-128 key, zero beyond it. -/
def zeroKeySchedule : Vector Word 60 :=
  let w := expandKey (Vector.replicate 8 0) .aes128
  Vector.ofFn fun i : Fin 60 => (w[i.val]?).getD 0

/-- An idle engine with that schedule. -/
def fullySchedule : State := { State.reset with sched := zeroKeySchedule, schedValid := true }

/-- The words of L2-KS4, all-zero key. -/
theorem test_zero_key_schedule :
    zeroKeySchedule.toList[4]? = some 0x62636363 ∧ zeroKeySchedule.toList[43]? = some 0x6F8F188E ∧
      zeroKeySchedule.toList[44]? = some 0 := by decide +kernel

/-- One index of the recurrence R133 on that schedule. -/
def zeroKeyWordOk (i : Nat) : Bool :=
  schedWord zeroKeySchedule i ==
    nextWord .aes128 i (schedWord zeroKeySchedule (i - 1)) (schedWord zeroKeySchedule (i - 4))

theorem zero_key_words_ok : (List.range 44).all (fun i => decide (i < 4) || zeroKeyWordOk i) = true := by
  decide +kernel

theorem zero_key_beyond : ZeroBeyond .aes128 zeroKeySchedule := by
  unfold ZeroBeyond
  decide +kernel

/-- The schedule invariant of a state with a complete schedule. -/
theorem schedule_inv_full : ScheduleInv fullySchedule where
  valid := fun _ v hv => by
    have e : Variant.aes128 = v := Option.some.inj hv
    subst e
    refine ⟨fun i h1 h2 => ?_, zero_key_beyond⟩
    have h := List.all_eq_true.mp zero_key_words_ok i (List.mem_range.mpr h2)
    rw [decide_eq_false (show ¬ i < 4 from Nat.not_lt.mpr h1), Bool.false_or] at h
    exact eq_of_beq h
  expanding := fun h => nomatch h

/-- A host access goes on from there. -/
theorem witness_StepKeepsTheSchedule :
    Inv fullySchedule ∧ ScheduleInv fullySchedule ∧ fullySchedule.schedValid = true ∧
      step fullySchedule = .next fullySchedule :=
  ⟨Inv.of_idle rfl rfl (fun _ => ⟨rfl, rfl⟩) nofun (by decide), schedule_inv_full, rfl, rfl⟩

/-- Each class of command in progress, with no input pending. -/
theorem witness_EveryCommandCompletes :
    (Inv (inProgress .nop State.reset) ∧ 1 = stepsLeft (inProgress .nop State.reset)) ∧
    (Inv (inProgress .keyExpand State.reset) ∧ 41 = stepsLeft (inProgress .keyExpand State.reset)) ∧
    (Inv (inProgress .encrypt (scheduled blockA)) ∧ 11 = stepsLeft (inProgress .encrypt (scheduled blockA))) ∧
    (Inv (inProgress .decrypt (scheduled blockA)) ∧ 11 = stepsLeft (inProgress .decrypt (scheduled blockA))) ∧
    (∀ i, (inProgress i State.reset).busy = true ∧ (inProgress i State.reset).events = []) :=
  ⟨⟨inv_nop, rfl⟩, ⟨inv_key_expand, rfl⟩, ⟨inv_encrypt, rfl⟩, ⟨inv_decrypt, rfl⟩, fun _ => ⟨rfl, rfl⟩⟩

theorem witness_BusyCommandIsIsolated :
    ∃ (s : State) (e : Event), s.busy = true ∧ s.events = [e] ∧ e ≠ .engine ∧ Undisturbing e :=
  ⟨{ inProgress .encrypt blockA with events := [.write 0x000 4 0x00000007] }, .write 0x000 4 0x00000007, rfl, rfl,
   nofun, fun h => absurd h.2 (by decide)⟩

/-- ENCRYPT with a dropped write, a read and ten engine turns before the last one. -/
theorem witness_InterleavingDoesNotChangeTheResult :
    ∃ (s : State) (es : List Event), Inv s ∧ s.busy = true ∧ s.events = [] ∧ (∀ e ∈ es, Undisturbing e) ∧
      es.count .engine + 1 = stepsLeft s := by
  refine ⟨inProgress .encrypt (scheduled blockA),
    .write 0x010 4 0 :: .read 0x048 4 :: List.replicate 10 .engine, inv_encrypt, rfl, rfl, fun e he => ?_, by decide⟩
  rcases List.mem_cons.mp he with rfl | he
  · exact fun h => absurd h.2 (by decide)
  rcases List.mem_cons.mp he with rfl | he
  · trivial
  · rw [(List.mem_replicate.mp he).2]
    trivial

theorem witness_AddressMapIsExact :
    accessed 0x1EC 4 = some (.rkey 59) ∧ accessed 0x03C 4 = some (.key 7) ∧ accessed 0x01C 4 = some (.state 3) := by
  decide

/-- The boundaries of the offsets outside the map, a size of 2 and a misaligned offset. -/
theorem witness_IllegalAccessesReturnBusErr :
    2 ≠ 4 ∧ (0x012 : BitVec 12).toNat % 4 ≠ 0 ∧ (0x04C : BitVec 12).toNat = 0x04C ∧
      (0x0FC : BitVec 12).toNat = 0x0FC ∧ (0x1F0 : BitVec 12).toNat = 0x1F0 ∧ (0xFFC : BitVec 12).toNat = 0xFFC :=
  ⟨nofun, nofun, rfl, rfl, rfl, rfl⟩

theorem witness_ReadsHaveNoSideEffects :
    ∃ s : State, s.busy = true ∧ s.events = [.read 0x100 4] :=
  ⟨{ inProgress .nop State.reset with events := [.read 0x100 4] }, rfl, rfl⟩

/-- The last STATE register, RESULT, and the first and the last RKEY. -/
theorem witness_BusyDataReadsAreFree :
    ∀ r ∈ [Reg.state 3, .result, .rkey 0, .rkey 59],
      ((∃ c, r = .state c) ∨ r = .result ∨ (∃ i, r = .rkey i)) ∧
        ({ inProgress .nop State.reset with events := [.read r.offset 4] } : State).busy = true := by
  intro r hr
  refine ⟨?_, rfl⟩
  simp only [List.mem_cons, List.not_mem_nil, or_false] at hr
  rcases hr with rfl | rfl | rfl | rfl
  · exact .inl ⟨_, rfl⟩
  · exact .inr (.inl rfl)
  · exact .inr (.inr ⟨_, rfl⟩)
  · exact .inr (.inr ⟨_, rfl⟩)

/-- Any access as the next input of an idle engine, and of a busy one: RegisterReadsReturnTheirValues,
CtrlAndStatusReadLayout, StatusWriteClears, CtrlWriteSetsItsFields, StateWriteSetsItsColumn,
DataWritesSetTheirRegister. -/
theorem witness_next_access (e : Event) :
    (∃ s : State, s.busy = false ∧ s.err = false ∧ s.events = [e]) ∧ (∃ s : State, s.busy = true ∧ s.events = [e]) :=
  ⟨⟨{ State.reset with events := [e] }, rfl, rfl, rfl⟩, { inProgress .nop State.reset with events := [e] }, rfl, rfl⟩

/-- CtrlWriteSetsItsFields: the greatest value with bit 31 clear. -/
theorem witness_CtrlWriteSetsItsFields : (0x7FFFFFFF : Word).getLsbD 31 = false := by decide

/-- Each clause of DataWritesSetTheirRegister at its last register. -/
theorem witness_DataWritesSetTheirRegister :
    (Reg.key 7).offset = 0x03C ∧ Reg.opa.offset = 0x040 ∧ Reg.opb.offset = 0x044 ∧ (Reg.rkey 59).offset = 0x1EC ∧
      Reg.id.offset = 0x00C ∧ Reg.result.offset = 0x048 := by decide

/-- Each clause of WritesWhileBusyAreDropped, with no error recorded and with one. -/
theorem witness_WritesWhileBusyAreDropped :
    (∀ r : Reg, ∃ s : State, s.busy = true ∧ s.err = false ∧ s.events = [.write r.offset 4 0x00000007]) ∧
    (∀ r : Reg, ∃ s : State, s.busy = true ∧ s.err = true ∧ s.events = [.write r.offset 4 0x00000007]) ∧
    (0x00000007 : Word).getLsbD 31 = false :=
  ⟨fun r => ⟨{ inProgress .nop State.reset with events := [.write r.offset 4 0x00000007] }, rfl, rfl, rfl⟩,
   fun r => ⟨{ inProgress .nop pendingError with events := [.write r.offset 4 0x00000007] }, rfl, rfl, rfl⟩, by decide⟩

/-- A refused command with no error recorded, with one recorded, and while busy. -/
theorem witness_RefusedCommandChangesOnlyTheErrorRecord :
    after (.write 0x008 4 0x00000002) State.reset (fun t => (t.busy, t.errCode, t.errOvf)) =
      some (false, .noSchedule, false) ∧
    after (.write 0x008 4 0x00000002) pendingError (fun t => (t.busy, t.errCode, t.errOvf)) =
      some (false, .illegalCmd, true) ∧
    after (.write 0x008 4 0x00000002) (inProgress .nop State.reset) (fun t => (t.busy, t.errCode, t.errOvf)) =
      some (true, .busy, false) := by decide

/-- DONE rises at a completion, and falls by an acceptance, by a STATUS write and by reset. -/
theorem witness_DoneRisesOnlyAtCompletion :
    ran .nop State.reset State.done = some true ∧
    after (.write 0x008 4 0x00000000) { State.reset with done := true } State.done = some false ∧
    after (.write 0x004 4 0x00000002) { State.reset with done := true } State.done = some false ∧
    after .reset { State.reset with done := true } State.done = some false := by decide

/-- irq falls by each of its causes. -/
theorem witness_IrqFallsOnlyByItsCauses :
    irq { State.reset with done := true, irqEn := true } = true ∧
    (∀ e ∈ [Event.write 0x004 4 0x00000006, .write 0x000 4 0x00000000, .write 0x008 4 0x00000000, .reset],
      after e { State.reset with done := true, irqEn := true } irq = some false) := by decide

/-- The schedule changes by each of its causes. -/
theorem witness_ScheduleChangesOnlyByItsCommands :
    ran .zeroize (scheduled State.reset) State.schedValid = some false ∧
    (nextOf (step (expandingAt 43 0 sched128))).map State.schedValid = some true ∧
    after (.write 0x008 4 0x00000001) { scheduled State.reset with keyWr := 0x0F } State.schedValid = some false ∧
    after .reset (scheduled State.reset) State.schedValid = some false := by decide

theorem witness_KeyRegistersCannotBeRead :
    ∃ s t : State, SameButKey s t ∧ s.key ≠ t.key ∧ s.events = [.read 0x020 4] :=
  ⟨{ State.reset with events := [.read 0x020 4] },
   { State.reset with key := Vector.replicate 8 1, events := [.read 0x020 4] }, rfl, by decide, rfl⟩

/-- Two ENCRYPT commands in progress on different data. -/
theorem witness_StepCountDoesNotDependOnData :
    Inv (inProgress .encrypt (scheduled blockA)) ∧ Inv (inProgress .encrypt (scheduled blockB)) ∧
      (inProgress .encrypt (scheduled blockA)).busy = true ∧
      (inProgress .encrypt (scheduled blockA)).block ≠ (inProgress .encrypt (scheduled blockB)).block :=
  ⟨inv_encrypt,
   inv_in_progress rfl rfl rfl (by decide) (by decide) (by decide) ⟨rfl, .aes128, rfl, by decide⟩, rfl, by decide⟩

end Sys2Proof.Tests
end

namespace Sys2Proof

/-! ## The decoder: the word of the command a word decodes to (R90, R98) -/

/-- The map R94 read backwards: the command of an OPCODE has that OPCODE, and RND where it has an operand. -/
theorem commandOf_some {op : BitVec 8} {rnd : BitVec 4} {i : Instr} (h : commandOf op rnd = some i) :
    i.opcode = op ∧ i.rndBits = if op = 0x16 then rnd else 0 := by
  unfold commandOf at h
  split at h <;> cases h <;> simp [Instr.opcode, Instr.rndBits]

/-- Every word that decodes is the word of its command. -/
theorem encode_of_decode {c : Word} {i : Instr} (h : decode c = .ok i) : encode i = c := by
  unfold decode at h
  split at h
  · exact nomatch h
  rename_i hreserved
  cases hi : commandOf (opcodeField c) (rndField c) with
  | none => simp [hi] at h
  | some j =>
    simp only [hi] at h
    split at h
    · exact nomatch h
    rename_i hrnd
    cases h
    obtain ⟨hop, hbits⟩ := commandOf_some hi
    have hbits' : i.rndBits = rndField c := by grind
    rw [encode, hop, hbits', formatC_of_fields c (not_not.mp hreserved)]

namespace Machine

variable {s : State} {rest : List Event}

/-! ## The address map (R63) -/

/-- Each register is reached at its offset by a 4-byte access. -/
@[simp] theorem accessed_offset (r : Reg) : accessed r.offset 4 = some r := by
  have hstate : ∀ c : Fin 4, accessed (Reg.state c).offset 4 = some (.state c) := by decide
  have hkey : ∀ k : Fin 8, accessed (Reg.key k).offset 4 = some (.key k) := by decide
  have hrkey : ∀ i : Fin 60, accessed (Reg.rkey i).offset 4 = some (.rkey i) := by decide
  cases r with
  | state c => exact hstate c
  | key k => exact hkey k
  | rkey i => exact hrkey i
  | _ => decide

/-- A register is reached at no other offset and by no other size. -/
theorem eq_offset_of_accessed {off : BitVec 12} {size : Nat} {r : Reg} (h : accessed off size = some r) :
    size = 4 ∧ off = r.offset := by
  unfold accessed at h
  split at h
  · refine ⟨by assumption, BitVec.eq_of_toNat_eq ?_⟩
    unfold regAt at h
    simp only at h
    repeat' split at h
    all_goals cases h
    all_goals simp [Reg.offset]; omega
  · exact nomatch h

/-- The step of a read of a register. -/
theorem step_read (r : Reg) (h : s.events = .read r.offset 4 :: rest) :
    step s = .next (readReg r { s with events := rest }) := by
  simp [step_of_event h, perform, busRead]

/-- The step of a write of a register. -/
theorem step_write (r : Reg) {v : Word} (h : s.events = .write r.offset 4 v :: rest) :
    step s = writeReg r v (answered .okay rest s) := by
  simp [step_of_event h, perform, busWrite, respond, answered]

/-- A STATUS write changes DONE and the error record only (R26). -/
theorem writeStatus_eq (v : Word) (s : State) :
    writeStatus v s =
      { s with
        done := s.done && !v.getLsbD 1
        err := s.err && !v.getLsbD 2
        errOvf := s.errOvf && !v.getLsbD 2
        errCode := if v.getLsbD 2 then .none else s.errCode } := by
  cases h1 : v.getLsbD 1 <;> cases h2 : v.getLsbD 2 <;>
    simp only [writeStatus, ackError, h1, h2, Bool.false_eq_true, if_true, if_false, Bool.not_true, Bool.not_false,
      Bool.and_true, Bool.and_false]

end Machine
end Sys2Proof

namespace Sys2Proof.Machine

variable {s t : State} {i : Instr} {rest : List Event}

/-! ## What a step can do -/

/-- What one step can do. `answered r rest s` is s with its input taken and a response returned. -/
inductive StepCase (s : State) : State → Prop
  /-- A read, an illegal access or a write of a read-only register changes no element (R61 to R65). -/
  | answer {e : Event} {rest : List Event} (r : Response) (n : Nat) (input : s.events = e :: rest) :
      StepCase s { answered r rest s with draws := n }
  /-- A turn of the idle engine (R189). -/
  | idleTurn (turn : EngineNext s) (idle : s.busy = false) : StepCase s { s with events := s.events.tail }
  /-- An engine step of the command in progress (R188). -/
  | engineStep {t : State} (i : Instr) (turn : EngineNext s) (latched : latchedCommand s = some i)
      (running : Running (classOf i) s) (next : engineStepOf i { s with events := s.events.tail } = .next t) :
      StepCase s t
  /-- The hardware reset, or SRST (R270, R271). -/
  | reset (rest : List Event) (rs : List Response) (input : ResetNext s) :
      StepCase s (toReset { s with events := rest, responses := rs })
  /-- A CTRL write without SRST on an idle engine (R25). -/
  | writeCtrl {rest : List Event} (v : Word) (input : s.events = .write 0x000 4 v :: rest) (idle : s.busy = false) :
      StepCase s { answered .okay rest s with ksize := v.extractLsb' 0 2, irqEn := v.getLsbD 2 }
  /-- A STATUS write (R26). -/
  | writeStatus {rest : List Event} (v : Word) (input : s.events = .write 0x004 4 v :: rest) :
      StepCase s (writeStatus v (answered .okay rest s))
  /-- A write of STATE, KEY, OPA or OPB on an idle engine (R35 to R37). -/
  | writeData {e : Event} {rest : List Event} (b : Block) (k : Vector Word 8) (m : BitVec 8) (a a' : Word)
      (input : s.events = e :: rest) (idle : s.busy = false) :
      StepCase s { answered .okay rest s with block := b, key := k, keyWr := m, opa := a, opb := a' }
  /-- A write dropped while BUSY = 1, or a command refused with a code (R66, R231). -/
  | raise {e : Event} {rest : List Event} (code : ErrCode) (code_ne : code ≠ .none) (input : s.events = e :: rest) :
      StepCase s (raiseError code (answered .okay rest s))
  /-- A CMD write while an error is recorded (R232). -/
  | refusePending {rest : List Event} (c : Word) (input : s.events = .write 0x008 4 c :: rest)
      (error : s.err = true) : StepCase s (refusePending (answered .okay rest s))
  /-- A CMD write that is accepted (R233). -/
  | accept {rest : List Event} (c : Word) (i : Instr) (input : s.events = .write 0x008 4 c :: rest) (idle : Idle s)
      (decoded : decode c = .ok i) (pass : checkOf i (answered .okay rest s) = .pass) :
      StepCase s (acceptedBy i (answered .okay rest s))

/-- A data write sets a data register, or is dropped and recorded (R66). -/
theorem StepCase.of_whenIdle {e : Event} {write : State → State} {b : Block} {k : Vector Word 8} {m : BitVec 8}
    {a a' : Word} (input : s.events = e :: rest)
    (hw : write (answered .okay rest s) =
      { answered .okay rest s with block := b, key := k, keyWr := m, opa := a, opb := a' }) :
    StepCase s (whenIdle write (answered .okay rest s)) := by
  cases hb : (answered .okay rest s).busy with
  | true =>
    rw [whenIdle_of_busy hb]
    exact .raise .busy nofun input
  | false =>
    rw [whenIdle_of_idle hb, hw]
    exact .writeData b k m a a' input hb

/-- A CTRL write resets, sets KSIZE and IRQ_EN, or is dropped (R24, R25, R66). -/
theorem stepCase_writeCtrl {v : Word} (input : s.events = .write 0x000 4 v :: rest) :
    StepCase s (writeCtrl v (answered .okay rest s)) := by
  unfold writeCtrl
  split
  · rename_i hv
    exact .reset rest _ (.inr ⟨v, rest, input, hv⟩)
  · cases hb : (answered .okay rest s).busy with
    | true =>
      rw [whenIdle_of_busy hb]
      exact .raise .busy nofun input
    | false =>
      rw [whenIdle_of_idle hb]
      exact .writeCtrl v input hb

/-- A CMD write is dropped, refused or accepted (R66, R232, R233). -/
theorem stepCase_writeCmd {c : Word} (input : s.events = .write 0x008 4 c :: rest)
    (h : writeCmd c (answered .okay rest s) = .next t) : StepCase s t := by
  rcases writeCmd_next h with ⟨-, rfl⟩ | ⟨-, he, rfl⟩ | ⟨-, rfl⟩ | ⟨hi, i, hd, hx⟩
  · exact .raise .busy nofun input
  · exact .refusePending c input he
  · exact .raise .illegalCmd nofun input
  · rcases exec_next hx with ⟨-, he, rfl⟩ | ⟨-, code, hc, -, rfl⟩ | ⟨-, hp, rfl⟩ | ⟨hr, -⟩
    · exact .refusePending c input he
    · exact .raise code hc input
    · exact .accept c i input ⟨hi.busy, hi.err⟩ hd hp
    · exact absurd (hi.busy.symm.trans hr.busy) nofun

/-- A register write, by the register (R63). -/
theorem stepCase_writeReg {r : Reg} {v : Word} (input : s.events = .write r.offset 4 v :: rest)
    (h : writeReg r v (answered .okay rest s) = .next t) : StepCase s t := by
  cases r with
  | cmd => exact stepCase_writeCmd input h
  | ctrl =>
    cases h
    exact stepCase_writeCtrl input
  | status =>
    cases h
    exact .writeStatus v input
  | state c =>
    cases h
    exact .of_whenIdle input rfl
  | key k =>
    cases h
    exact .of_whenIdle input rfl
  | opa =>
    cases h
    exact .of_whenIdle input rfl
  | opb =>
    cases h
    exact .of_whenIdle input rfl
  | id | result | rkey =>
    cases h
    exact .answer .okay s.draws input

/-- A turn of the engine is empty, or an engine step of the latched command (R189). -/
theorem stepCase_engineTurn (turn : EngineNext s) (h : engineTurn { s with events := s.events.tail } = .next t) :
    StepCase s t := by
  rcases engineTurn_next h with ⟨hb, rfl⟩ | ⟨hb, i, hl, hx⟩
  · exact .idleTurn turn hb
  · rcases exec_next hx with ⟨hb', -⟩ | ⟨hi, -⟩ | ⟨hi, -⟩ | ⟨hr, hn⟩
    · exact absurd (hb'.symm.trans hb) nofun
    · exact absurd (hi.busy.symm.trans hb) nofun
    · exact absurd (hi.busy.symm.trans hb) nofun
    · exact .engineStep i turn hl ⟨hr.busy, hr.fsm⟩ hn

/-- The whole of a step that goes on. -/
theorem stepCase_of_step (h : step s = .next t) : StepCase s t := by
  rcases step_next h with ⟨hnil, h⟩ | ⟨e, rest, input, h⟩
  · refine stepCase_engineTurn (.inl hnil) ?_
    rwa [show { s with events := s.events.tail } = s by rw [hnil, List.tail_nil, ← hnil]]
  · cases e with
    | read off size =>
      cases h
      obtain ⟨r, n, hr⟩ := busRead_frame off size { s with events := rest }
      rw [hr]
      exact .answer r n input
    | write off size v =>
      simp only [perform, busWrite] at h
      cases ha : accessed off size with
      | none =>
        simp only [ha] at h
        cases h
        exact .answer .busErr s.draws input
      | some r =>
        simp only [ha] at h
        obtain ⟨rfl, rfl⟩ := eq_offset_of_accessed ha
        exact stepCase_writeReg input h
    | engine => exact stepCase_engineTurn (.inr ⟨rest, input⟩) (by rwa [input])
    | reset =>
      cases h
      exact .reset rest s.responses (.inl ⟨rest, input⟩)

/-! ## What an engine step can do -/

/-- What one engine step of command i can do (R188). -/
inductive EngineCase (i : Instr) (s : State) : State → Prop
  /-- A single-operation command completes (R165). -/
  | prim (cls : classOf i = .prim) : EngineCase i s (complete (primEffect i s))
  /-- The load step of KEY_EXPAND (R135). -/
  | load (v : Variant) (cls : classOf i = .kexp) (size : variantOf s.xKsize = some v) : EngineCase i s (kexpLoad v s)
  /-- A word step of KEY_EXPAND (R136). -/
  | word (v : Variant) (cls : classOf i = .kexp) (size : variantOf s.xKsize = some v) (started : s.ctr ≠ 0)
      (above : v.nk ≤ s.ctr.toNat) (below : s.ctr.toNat < v.words) : EngineCase i s (kexpWord v s.ctr.toNat s)
  /-- A round of ENCRYPT or DECRYPT that is not the last (R183, R185). -/
  | round (v : Variant) (b : Block) (cls : classOf i = .enc ∨ classOf i = .dec)
      (size : variantOf s.schedKsize = some v) (below : s.ctr.toNat < v.nr) : EngineCase i s (roundStep b s)
  /-- The last round completes the command (R183, R185). -/
  | lastRound (b : Block) (cls : classOf i = .enc ∨ classOf i = .dec) :
      EngineCase i s (complete { s with block := b })

/-- The whole of an engine step. -/
theorem engineCase_of_step (h : engineStepOf i s = .next t) : EngineCase i s t := by
  cases i with
  | keyExpand =>
    obtain ⟨v, hv, ⟨-, rfl⟩ | ⟨h0, h1, h2, rfl⟩⟩ := kexpStep_next h
    · exact .load v rfl hv
    · exact .word v rfl hv h0 h1 h2
  | encrypt =>
    obtain ⟨v, b, hv, ⟨hk, rfl⟩ | ⟨-, rfl⟩⟩ := encStep_next h
    · exact .round v b (.inl rfl) hv hk
    · exact .lastRound b (.inl rfl)
  | decrypt =>
    obtain ⟨v, b, hv, ⟨hk, rfl⟩ | ⟨-, rfl⟩⟩ := decStep_next h
    · exact .round v b (.inr rfl) hv hk
    · exact .lastRound b (.inr rfl)
  | _ =>
    cases h
    exact .prim rfl

end Sys2Proof.Machine

namespace Sys2Proof.Machine

variable {s t u : State} {i : Instr} {v : Variant}

/-! ## What acceptance and completion leave, by the command -/

section acceptedBy

variable (i : Instr) (s : State)

@[simp] theorem acceptedBy_busy : (acceptedBy i s).busy = true := by cases i <;> rfl
@[simp] theorem acceptedBy_done : (acceptedBy i s).done = false := by cases i <;> rfl
@[simp] theorem acceptedBy_err : (acceptedBy i s).err = s.err := by cases i <;> rfl
@[simp] theorem acceptedBy_errOvf : (acceptedBy i s).errOvf = s.errOvf := by cases i <;> rfl
@[simp] theorem acceptedBy_errCode : (acceptedBy i s).errCode = s.errCode := by cases i <;> rfl
@[simp] theorem acceptedBy_schedKsize : (acceptedBy i s).schedKsize = s.schedKsize := by cases i <;> rfl
@[simp] theorem acceptedBy_sched : (acceptedBy i s).sched = s.sched := by cases i <;> rfl
@[simp] theorem acceptedBy_fsm : (acceptedBy i s).fsm = classOf i := by cases i <;> rfl
@[simp] theorem acceptedBy_ctr : (acceptedBy i s).ctr = 0 := by cases i <;> rfl
@[simp] theorem acceptedBy_curOp : (acceptedBy i s).curOp = i.opcode := by cases i <;> rfl
@[simp] theorem acceptedBy_curRnd : (acceptedBy i s).curRnd = i.rndBits := by cases i <;> rfl

/-- SCHED_VALID falls at the acceptance of KEY_EXPAND only (R134). -/
@[simp] theorem acceptedBy_schedValid :
    (acceptedBy i s).schedValid = (s.schedValid && decide (i ≠ .keyExpand)) := by
  cases i <;> simp [acceptedBy]

end acceptedBy

/-- An accepted command is the one latched (R43). -/
theorem latchedCommand_acceptedBy {c : Word} (h : decode c = .ok i) (s : State) :
    latchedCommand (acceptedBy i s) = some i := by
  have hw : latchedWord (acceptedBy i s) = c :=
    (latchedWord_eq_encode (acceptedBy_curOp i s) (acceptedBy_curRnd i s)).trans (encode_of_decode h)
  rw [latchedCommand, hw, h]
  rfl

theorem classOf_ne_idle (i : Instr) : classOf i ≠ .idle := by cases i <;> exact nofun

theorem classOf_eq_kexp_iff : classOf i = .kexp ↔ i = .keyExpand := by cases i <;> simp [classOf]

theorem classOf_eq_enc_iff : classOf i = .enc ↔ i = .encrypt := by cases i <;> simp [classOf]

theorem classOf_eq_dec_iff : classOf i = .dec ↔ i = .decrypt := by cases i <;> simp [classOf]

/-- KEY_EXPAND is accepted with a supported key size only (R134). -/
theorem exists_variantOf_of_checkKey (h : checkKey s = .pass) : ∃ v, variantOf s.ksize = some v := by
  refine exists_variantOf fun h3 => ?_
  rw [checkKey_of_unsupported h3] at h
  exact nomatch h

/-- ENCRYPT and DECRYPT are accepted with a schedule only (R182, R184). -/
theorem schedValid_of_checkSchedule (h : checkSchedule s = .pass) : s.schedValid = true := by
  by_contra hv
  rw [checkSchedule_of_invalid (Bool.eq_false_of_not_eq_true hv)] at h
  exact nomatch h

/-- ADD_ROUND_KEY is accepted with a schedule that has the round key only (R164). -/
theorem round_le_of_checkRound {rnd : Nat} (h : checkRound rnd s = .pass) :
    s.schedValid = true ∧ ∃ v, variantOf s.schedKsize = some v ∧ rnd ≤ v.nr := by
  unfold checkRound at h
  split at h
  · cases hv : variantOf s.schedKsize with
    | none => simp [hv] at h
    | some v => exact ⟨by assumption, v, rfl, by grind⟩
  · exact nomatch h

/-! ## The machine invariant (R48) -/

theorem progressOk_prim (h : s.fsm = .prim) :
    ProgressOk s ↔ ∀ rnd, latchedCommand s = some (.addRoundKey rnd) →
      s.schedValid = true ∧ ∃ v, variantOf s.schedKsize = some v ∧ rnd ≤ v.nr := by
  simp only [ProgressOk, h]

theorem progressOk_kexp (h : s.fsm = .kexp) :
    ProgressOk s ↔ s.schedValid = false ∧
      ∃ v, variantOf s.xKsize = some v ∧ (s.ctr = 0 ∨ (v.nk ≤ s.ctr.toNat ∧ s.ctr.toNat < v.words)) := by
  simp only [ProgressOk, h]

theorem progressOk_cipher (h : s.fsm = .enc ∨ s.fsm = .dec) :
    ProgressOk s ↔ s.schedValid = true ∧ ∃ v, variantOf s.schedKsize = some v ∧ s.ctr.toNat ≤ v.nr := by
  rcases h with h | h <;> simp only [ProgressOk, h]

/-- A command is accepted at the start of its progress. -/
theorem progressOk_acceptedBy {c : Word} (hsize : s.schedKsize ≠ 3) (hd : decode c = .ok i)
    (hp : checkOf i s = .pass) : ProgressOk (acceptedBy i s) := by
  have hf := acceptedBy_fsm i s
  have hcipher (hvalid : s.schedValid = true) (hne : i ≠ .keyExpand) :
      (acceptedBy i s).schedValid = true ∧
        ∃ v, variantOf (acceptedBy i s).schedKsize = some v ∧ (acceptedBy i s).ctr.toNat ≤ v.nr := by
    obtain ⟨v, hv⟩ := exists_variantOf hsize
    exact ⟨by simp [hvalid, hne], v, by simpa using hv, by simp⟩
  cases hc : classOf i with
  | idle => exact absurd hc (classOf_ne_idle i)
  | prim =>
    refine (progressOk_prim (hf.trans hc)).mpr fun rnd hl => ?_
    obtain rfl : i = .addRoundKey rnd := Option.some.inj ((latchedCommand_acceptedBy hd s).symm.trans hl)
    exact round_le_of_checkRound hp
  | kexp =>
    obtain rfl := classOf_eq_kexp_iff.mp hc
    obtain ⟨v, hv⟩ := exists_variantOf_of_checkKey hp
    exact (progressOk_kexp hf).mpr ⟨rfl, v, hv, .inl rfl⟩
  | enc =>
    obtain rfl := classOf_eq_enc_iff.mp hc
    exact (progressOk_cipher (.inl hf)).mpr (hcipher (schedValid_of_checkSchedule hp) nofun)
  | dec =>
    obtain rfl := classOf_eq_dec_iff.mp hc
    exact (progressOk_cipher (.inr hf)).mpr (hcipher (schedValid_of_checkSchedule hp) nofun)

/-- Acceptance keeps the invariant (R233). -/
theorem Inv.acceptedBy {c : Word} (h : Inv s) (hd : decode c = .ok i) (hp : checkOf i s = .pass) :
    Inv (acceptedBy i s) where
  busy_iff := by simp [classOf_ne_idle]
  no_error := by simpa using h.no_error
  error := by simpa using h.error
  sched_size := by simpa using h.sched_size
  latched := fun _ => ⟨i, latchedCommand_acceptedBy hd s, (acceptedBy_fsm i s).symm⟩
  progress := progressOk_acceptedBy h.sched_size hd hp

/-- The invariant does not see the data registers and CTRL. -/
theorem Inv.data (h : Inv s) (q : Bool) (ks : BitVec 2) (b : Block) (k : Vector Word 8) (m : BitVec 8) (a a' : Word) :
    Inv { s with irqEn := q, ksize := ks, block := b, key := k, keyWr := m, opa := a, opb := a' } :=
  ⟨h.busy_iff, h.no_error, h.error, h.sched_size, h.latched, h.progress⟩

/-- A STATUS write keeps the invariant: bit 2 clears the whole error record (R26, R236). -/
theorem Inv.writeStatus (h : Inv s) (w : Word) : Inv (writeStatus w s) := by
  rw [writeStatus_eq]
  refine ⟨h.busy_iff, ?_, ?_, h.sched_size, h.latched, h.progress⟩
  · cases w.getLsbD 2 with
    | true => exact fun _ => ⟨rfl, Bool.and_false _⟩
    | false => simpa using h.no_error
  · cases w.getLsbD 2 with
    | true => simp
    | false => simpa using h.error

theorem Inv.refusePending (h : Inv s) (he : s.err = true) : Inv (refusePending s) :=
  ⟨h.busy_iff, fun h0 => absurd (h0.symm.trans he) nofun, h.error, h.sched_size, h.latched, h.progress⟩

theorem Inv.toReset (s : State) : Inv (toReset s) :=
  .of_idle rfl rfl (fun _ => ⟨rfl, rfl⟩) nofun (show (0 : BitVec 2) ≠ 3 by decide)

/-- A command that completes leaves an idle engine with the error record as it was (R165). -/
theorem Inv.complete (h : Inv s) (hu : u.err = s.err ∧ u.errOvf = s.errOvf ∧ u.errCode = s.errCode)
    (hk : u.schedKsize ≠ 3) : Inv (complete u) := by
  obtain ⟨he, ho, hc⟩ := hu
  exact .of_idle rfl rfl (by simpa [he, ho, hc] using h.no_error) (by simpa [he, hc] using h.error) hk

/-- A step of the command in progress keeps the invariant where it keeps its progress in range. -/
theorem Inv.progressed (h : Inv s) (w : Vector Word 60) (b : Block) (n : BitVec 6)
    (hp : ProgressOk { s with sched := w, block := b, ctr := n }) : Inv { s with sched := w, block := b, ctr := n } :=
  ⟨h.busy_iff, h.no_error, h.error, h.sched_size, h.latched, hp⟩

/-- An index of the schedule fits in CTR (R44). -/
theorem toNat_ofNat_of_lt_words {n : Nat} (h : n < v.words) : (BitVec.ofNat 6 n).toNat = n := by
  have := v.words_le
  rw [BitVec.toNat_ofNat]
  omega

/-- The load step keeps the invariant (R135). -/
theorem Inv.kexpLoad (h : Inv s) (hf : s.fsm = .kexp) (hv : variantOf s.xKsize = some v) : Inv (kexpLoad v s) := by
  unfold Machine.kexpLoad
  refine h.progressed _ s.block _ ((progressOk_kexp (by exact hf)).mpr ?_)
  have hnk : (BitVec.ofNat 6 v.nk).toNat = v.nk := toNat_ofNat_of_lt_words v.nk_lt_words
  exact ⟨((progressOk_kexp hf).mp h.progress).1, v, hv, .inr ⟨hnk.ge, hnk.trans_lt v.nk_lt_words⟩⟩

/-- A word step keeps the invariant (R136, R137). -/
theorem Inv.kexpWord (h : Inv s) (hf : s.fsm = .kexp) (hv : variantOf s.xKsize = some v) (hlo : v.nk ≤ s.ctr.toNat)
    (hhi : s.ctr.toNat < v.words) : Inv (kexpWord v s.ctr.toNat s) := by
  rw [kexpWord_eq]
  split
  · exact h.complete ⟨rfl, rfl, rfl⟩ fun h3 => nomatch hv.symm.trans ((variantOf_eq_none_iff _).mpr h3)
  · refine h.progressed _ s.block _ ((progressOk_kexp (by exact hf)).mpr ?_)
    have hn : (BitVec.ofNat 6 (s.ctr.toNat + 1)).toNat = s.ctr.toNat + 1 :=
      toNat_ofNat_of_lt_words (v := v) (by omega)
    exact ⟨((progressOk_kexp hf).mp h.progress).1, v, hv, .inr (by simp only [hn]; omega)⟩

/-- A round that is not the last keeps the invariant (R183, R185). -/
theorem Inv.roundStep (h : Inv s) (hf : s.fsm = .enc ∨ s.fsm = .dec) (hv : variantOf s.schedKsize = some v)
    (hlt : s.ctr.toNat < v.nr) (b : Block) : Inv (roundStep b s) := by
  refine h.progressed s.sched b _ ((progressOk_cipher (by exact hf)).mpr ?_)
  refine ⟨((progressOk_cipher hf).mp h.progress).1, v, hv, ?_⟩
  have := v.nr_le
  change (s.ctr + 1).toNat ≤ v.nr
  bv_omega

/-- Every engine step keeps the invariant (R188). -/
theorem Inv.engineStep (h : Inv s) (hr : Running (classOf i) s) (hc : EngineCase i s t) : Inv t := by
  cases hc with
  | prim =>
    refine h.complete (primEffect_error i s) ?_
    rcases primEffect_schedKsize i s with hk | hk
    · exact hk ▸ h.sched_size
    · exact hk ▸ (by decide)
  | load v hk hv => exact h.kexpLoad (hr.fsm.trans hk) hv
  | word v hk hv _ hlo hhi => exact h.kexpWord (hr.fsm.trans hk) hv hlo hhi
  | round v b hk hv hlt => exact h.roundStep (by rwa [hr.fsm]) hv hlt b
  | lastRound b => exact h.complete ⟨rfl, rfl, rfl⟩ h.sched_size

/-- Taking an input and returning a response keeps the invariant (log 1, log 6). -/
theorem Inv.answered (h : Inv s) (r : Response) (rest : List Event) : Inv (answered r rest s) :=
  h.env rest (r :: s.responses) s.draws

/-- Settles O38, by what a step can do: each input and each engine step keeps the invariant. -/
theorem stepKeepsTheInvariant : Obligations.StepKeepsTheInvariant := by
  intro s t h hst
  cases stepCase_of_step hst with
  | answer r n => exact h.env _ _ n
  | idleTurn => exact h.env _ s.responses s.draws
  | engineStep i _ _ hr hn =>
    exact (h.env s.events.tail s.responses s.draws).engineStep (i := i) ⟨hr.busy, hr.fsm⟩ (engineCase_of_step hn)
  | reset => exact .toReset _
  | writeCtrl v => exact (h.answered _ _).data _ _ s.block s.key s.keyWr s.opa s.opb
  | writeStatus v => exact (h.answered _ _).writeStatus v
  | writeData b k m a a' => exact (h.answered _ _).data s.irqEn s.ksize b k m a a'
  | raise code hc => exact (h.answered _ _).raise hc
  | refusePending c _ he => exact (h.answered _ _).refusePending he
  | accept c i _ _ hd hp => exact (h.answered _ _).acceptedBy hd hp

end Sys2Proof.Machine

namespace Sys2Proof.Machine

variable {s t : State} {i : Instr} {v : Variant} {w : Vector Word 60}

/-! ## The schedule invariant (R30, R39) -/

/-- Without a valid schedule, and with no expansion past its load step, the schedule invariant asks nothing. -/
theorem ScheduleInv.of_invalid (hv : s.schedValid = false) (hf : s.fsm = .kexp → s.ctr = 0) : ScheduleInv s :=
  ⟨fun h => absurd (hv.symm.trans h) nofun, fun h hc => absurd (hf h) hc⟩

/-- Outside KEXP the schedule invariant sees the schedule, SCHED_VALID and SCHED_KSIZE only. -/
theorem ScheduleInv.of_not_kexp (h : ScheduleInv s) (hw : t.sched = s.sched) (hv : t.schedValid = s.schedValid)
    (hk : t.schedKsize = s.schedKsize) (hf : t.fsm ≠ .kexp) : ScheduleInv t :=
  ⟨by rw [hv, hk, hw]; exact h.valid, fun hkexp => absurd hkexp hf⟩

/-- During an expansion the schedule invariant is about the words below CTR. -/
theorem ScheduleInv.of_expanding (hvalid : t.schedValid = false) (hv : variantOf t.xKsize = some v)
    (h : Expanded v t.ctr.toNat t.sched ∧ ZeroBeyond v t.sched) : ScheduleInv t where
  valid := fun h' => absurd (hvalid.symm.trans h') nofun
  expanding := fun _ _ v' hv' => by
    obtain rfl : v = v' := Option.some.inj (hv.symm.trans hv')
    exact h

/-- After an expansion it is about the whole schedule. -/
theorem ScheduleInv.of_complete (hf : t.fsm ≠ .kexp) (hv : variantOf t.schedKsize = some v)
    (h : Expanded v v.words t.sched ∧ ZeroBeyond v t.sched) : ScheduleInv t where
  valid := fun _ v' hv' => by
    obtain rfl : v = v' := Option.some.inj (hv.symm.trans hv')
    exact h
  expanding := fun hkexp => absurd hkexp hf

/-- The load step clears the words from `4(Nr+1)` on (R135). -/
theorem zeroBeyond_loadedSchedule (v : Variant) (k : Vector Word 8) (w : Vector Word 60) :
    ZeroBeyond v (loadedSchedule v k w) := by
  intro j hj
  have := v.nk_lt_words
  rw [Fin.getElem_fin, loadedSchedule_getElem, if_neg (by omega), if_pos hj]

/-- A word step writes no word from `4(Nr+1)` on (R136). -/
theorem ZeroBeyond.set (h : ZeroBeyond v w) {n : Nat} (hn : n < v.words) (x : Word) :
    ZeroBeyond v (w.setIfInBounds n x) := by
  intro j hj
  have hj0 := h j hj
  rw [Fin.getElem_fin] at hj0 ⊢
  rw [Vector.getElem_setIfInBounds_ne _ (by omega), hj0]

/-- The word of R133 at index n extends the words below n, none of which it reads from n on (R136). -/
theorem Expanded.set {n : Nat} (h : Expanded v n w) (hlo : v.nk ≤ n) (hhi : n < v.words) :
    Expanded v (n + 1)
      (w.setIfInBounds n (nextWord v n (schedWord w (n - 1)) (schedWord w (n - v.nk)))) := by
  intro j hj hjn
  have hnk := v.nk_ge
  have hwords := v.words_le
  rw [schedWord_set_ne w (show n ≠ j - 1 by omega), schedWord_set_ne w (show n ≠ j - v.nk by omega)]
  rcases Nat.lt_or_eq_of_le (Nat.lt_succ_iff.mp hjn) with hlt | rfl
  · rw [schedWord_set_ne w (show n ≠ j by omega)]
    exact h j hj hlt
  · exact schedWord_set_self w (by omega) _

/-- Acceptance keeps the schedule invariant; KEY_EXPAND's makes the schedule invalid (R134). -/
theorem ScheduleInv.acceptedBy (h : ScheduleInv s) (i : Instr) : ScheduleInv (acceptedBy i s) := by
  by_cases hi : i = .keyExpand
  · exact .of_invalid (by simp [hi]) fun _ => acceptedBy_ctr i s
  · exact h.of_not_kexp (by simp) (by simp [hi]) (by simp) (by simpa [classOf_eq_kexp_iff] using hi)

/-- Of the single-operation commands only ZEROIZE touches the schedule, and makes it invalid (R140, R211). -/
theorem primEffect_schedule (i : Instr) (s : State) :
    ((primEffect i s).sched = s.sched ∧ (primEffect i s).schedValid = s.schedValid ∧
      (primEffect i s).schedKsize = s.schedKsize) ∨ (primEffect i s).schedValid = false := by
  cases i with
  | zeroize => exact .inr rfl
  | _ => exact .inl ⟨rfl, rfl, rfl⟩

/-- The load step keeps the schedule invariant: no word past Nk is in place yet (R135). -/
theorem scheduleInv_kexpLoad (hvalid : s.schedValid = false) (hv : variantOf s.xKsize = some v) :
    ScheduleInv (kexpLoad v s) := by
  refine .of_expanding (v := v) (by simpa using hvalid) (by simpa using hv) ⟨fun j h1 h2 => ?_, ?_⟩
  · rw [kexpLoad_ctr, toNat_ofNat_of_lt_words v.nk_lt_words] at h2
    omega
  · rw [kexpLoad_sched]
    exact zeroBeyond_loadedSchedule v _ _

/-- A word step keeps the schedule invariant: it puts the next word in place (R136, R137). -/
theorem ScheduleInv.kexpWord (h : ScheduleInv s) (hvalid : s.schedValid = false) (hf : s.fsm = .kexp)
    (hv : variantOf s.xKsize = some v) (hc : s.ctr ≠ 0) (hlo : v.nk ≤ s.ctr.toNat) (hhi : s.ctr.toNat < v.words) :
    ScheduleInv (kexpWord v s.ctr.toNat s) := by
  obtain ⟨hexp, hzero⟩ := h.expanding hf hc v hv
  have hexp' := hexp.set hlo hhi
  rw [kexpWord_eq]
  split
  · rename_i hlast
    rw [show s.ctr.toNat + 1 = v.words by omega] at hexp'
    exact .of_complete nofun hv ⟨hexp', hzero.set hhi _⟩
  · refine .of_expanding hvalid hv ⟨?_, hzero.set hhi _⟩
    rw [toNat_ofNat_of_lt_words (v := v) (by omega)]
    exact hexp'

/-- Every engine step keeps the schedule invariant (R140). -/
theorem ScheduleInv.engineStep (h : ScheduleInv s) (hinv : Inv s) (hr : Running (classOf i) s)
    (hc : EngineCase i s t) : ScheduleInv t := by
  have invalid (hk : classOf i = .kexp) : s.schedValid = false :=
    ((progressOk_kexp (hr.fsm.trans hk)).mp hinv.progress).1
  have not_kexp (hk : classOf i = .enc ∨ classOf i = .dec) : s.fsm ≠ .kexp := by
    rw [hr.fsm]
    rcases hk with hk | hk <;> simp [hk]
  cases hc with
  | prim =>
    rcases primEffect_schedule i s with ⟨hw, hv, hk⟩ | hv
    · exact h.of_not_kexp hw hv hk nofun
    · exact .of_invalid hv nofun
  | load v hk hv => exact scheduleInv_kexpLoad (invalid hk) hv
  | word v hk hv h0 hlo hhi => exact h.kexpWord (invalid hk) (hr.fsm.trans hk) hv h0 hlo hhi
  | round v b hk => exact h.of_not_kexp rfl rfl rfl (not_kexp hk)
  | lastRound b => exact h.of_not_kexp rfl rfl rfl nofun

/-- Taking an input and returning a response keeps the schedule invariant (log 1, log 6). -/
theorem ScheduleInv.answered (h : ScheduleInv s) (r : Response) (rest : List Event) :
    ScheduleInv (answered r rest s) := h.congr rfl rfl rfl rfl rfl rfl

/-- Recording an error keeps the schedule invariant (R231). -/
theorem ScheduleInv.raise (h : ScheduleInv s) (code : ErrCode) : ScheduleInv (raiseError code s) :=
  h.congr (raiseError_sched code s) (raiseError_schedValid code s) (raiseError_schedKsize code s)
    (raiseError_fsm code s) (raiseError_ctr code s) (raiseError_xKsize code s)

/-- Settles O40, by what a step can do: only an acceptance of KEY_EXPAND, an engine step and a reset touch what the
schedule invariant sees. -/
theorem stepKeepsTheSchedule : Obligations.StepKeepsTheSchedule := by
  intro s t hinv h hst
  cases stepCase_of_step hst with
  | answer | idleTurn | writeCtrl | writeData | refusePending => exact h.congr rfl rfl rfl rfl rfl rfl
  | engineStep i _ _ hr hn =>
    have hs : ScheduleInv { s with events := s.events.tail } := h.congr rfl rfl rfl rfl rfl rfl
    exact hs.engineStep (i := i) (hinv.env _ s.responses s.draws) ⟨hr.busy, hr.fsm⟩ (engineCase_of_step hn)
  | reset => exact .of_invalid rfl nofun
  | writeStatus v =>
    rw [writeStatus_eq]
    exact h.congr rfl rfl rfl rfl rfl rfl
  | raise code => exact (h.answered _ _).raise code
  | accept c i => exact (h.answered _ _).acceptedBy i

end Sys2Proof.Machine

namespace Sys2Proof.Machine

variable {s t : State} {i : Instr}

/-! ## Reset (R47, R48) -/

/-- Settles O1, element by element. -/
theorem resetStateHoldsResetValues : Obligations.ResetStateHoldsResetValues where
  ksize := rfl
  irqEn := rfl
  busy := rfl
  done := rfl
  err := rfl
  errOvf := rfl
  errCode := rfl
  schedValid := rfl
  schedKsize := rfl
  keyWr := rfl
  block := by decide
  key := fun _ => Vector.getElem_replicate _
  opa := rfl
  opb := rfl
  result := rfl
  sched := fun _ => Vector.getElem_replicate _
  fsm := rfl
  curOp := rfl
  curRnd := rfl
  ctr := rfl
  xKsize := rfl
  irq := rfl

/-- Settles O37: the reset state is idle, without an error and without a schedule. -/
theorem resetMeetsTheInvariants : Obligations.ResetMeetsTheInvariants :=
  ⟨.toReset State.reset, .of_invalid rfl nofun⟩

/-! ## DONE (R28) -/

/-- An engine step keeps DONE, or sets it and ends the command (R165, R188). -/
theorem EngineCase.done (h : EngineCase i s t) : t.done = s.done ∨ (t.done = true ∧ t.busy = false) := by
  cases h with
  | prim | lastRound => exact .inr ⟨rfl, rfl⟩
  | load => exact .inl (kexpLoad_done _ s)
  | word v =>
    rw [kexpWord_eq]
    split
    · exact .inr ⟨rfl, rfl⟩
    · exact .inl rfl
  | round => exact .inl rfl

/-- What a step does to DONE: keeps it, sets it at a completion, or clears it by one of its causes. -/
theorem StepCase.done (h : StepCase s t) :
    t.done = s.done ∨ (t.done = true ∧ EngineNext s ∧ s.busy = true ∧ t.busy = false) ∨
      (t.done = false ∧
        ((∃ c rest, s.events = .write 0x008 4 c :: rest ∧ s.busy = false ∧ t.busy = true) ∨
          (∃ v rest, s.events = .write 0x004 4 v :: rest ∧ v.getLsbD 1 = true) ∨ ResetNext s)) := by
  cases h with
  | answer | idleTurn | writeCtrl | writeData | refusePending => exact .inl rfl
  | raise code => exact .inl (raiseError_done code _)
  | engineStep i turn _ hr hn =>
    rcases (engineCase_of_step hn).done with hd | ⟨hd, hb⟩
    · exact .inl hd
    · exact .inr (.inl ⟨hd, turn, hr.busy, hb⟩)
  | reset _ _ input => exact .inr (.inr ⟨rfl, .inr (.inr input)⟩)
  | writeStatus v input =>
    rw [writeStatus_eq]
    cases hv : v.getLsbD 1 with
    | false => exact .inl (Bool.and_true _)
    | true => exact .inr (.inr ⟨Bool.and_false _, .inr (.inl ⟨v, _, input, hv⟩)⟩)
  | accept c i input idle =>
    exact .inr (.inr ⟨acceptedBy_done i _, .inl ⟨c, _, input, idle.busy, acceptedBy_busy i _⟩⟩)

/-- Settles O56, by what a step does to DONE. -/
theorem doneRisesOnlyAtCompletion : Obligations.DoneRisesOnlyAtCompletion := by
  intro s t hst
  rcases (stepCase_of_step hst).done with hd | ⟨hd, hc⟩ | ⟨hd, hc⟩
  · exact ⟨fun h0 h1 => absurd (h1.symm.trans (hd.trans h0)) nofun,
      fun h1 h0 => absurd (h1.symm.trans (hd.symm.trans h0)) nofun⟩
  · exact ⟨fun _ _ => hc, fun _ h0 => absurd (hd.symm.trans h0) nofun⟩
  · exact ⟨fun _ h1 => absurd (h1.symm.trans hd) nofun, fun _ _ => hc⟩

end Sys2Proof.Machine

namespace Sys2Proof.Machine

variable {s : State} {rest : List Event}

/-! ## Reads (R33 to R39, R64) -/

/-- A read of STATE, RESULT or RKEY while BUSY = 0 returns its value (R67). -/
theorem readData_of_idle (h : s.busy = false) (w : Word) (rest : List Event) :
    readData w { s with events := rest } = answered (.data w) rest s := by
  unfold readData
  exact if_neg (Bool.eq_false_iff.mp h)

/-- Settles O48, register by register. -/
theorem registerReadsReturnTheirValues : Obligations.RegisterReadsReturnTheirValues := by
  intro s rest
  refine ⟨fun r w hr h => ?_, fun hb => ⟨fun c h => ?_, fun h => ?_, fun i h => ?_⟩⟩
  · rw [step_read r h]
    simp only [List.mem_cons, Prod.mk.injEq, List.not_mem_nil, or_false] at hr
    rcases hr with (⟨rfl, rfl⟩ | ⟨rfl, rfl⟩ | ⟨rfl, rfl⟩ | ⟨rfl, rfl⟩) | ⟨k, rfl, rfl⟩ <;> rfl
  · exact (step_read (.state c) h).trans (congrArg _ (readData_of_idle hb _ rest))
  · exact (step_read .result h).trans (congrArg _ (readData_of_idle hb _ rest))
  · exact (step_read (.rkey i) h).trans (congrArg _ (readData_of_idle hb _ rest))

/-- A field of a word, bit by bit. -/
theorem extractLsb'_eq_of_bits {w : Word} {start len : Nat} {x : BitVec len}
    (h : ∀ j, j < len → w.getLsbD (start + j) = x.getLsbD j) : w.extractLsb' start len = x := by
  ext j hj
  rw [BitVec.getElem_extractLsb', h j hj, BitVec.getLsbD_eq_getElem hj]

/-- The bits of a CTRL read (R21). -/
theorem getLsbD_ctrlWord (s : State) (n : Nat) :
    (ctrlWord s).getLsbD n = if n < 2 then s.ksize.getLsbD n else decide (n = 2) && s.irqEn := by
  simp only [ctrlWord, BitVec.getLsbD_setWidth, BitVec.getLsbD_append, BitVec.getLsbD_ofBool]
  grind

/-- The bits of a STATUS read (R26). -/
theorem getLsbD_statusWord (s : State) (n : Nat) :
    (statusWord s).getLsbD n =
      if n = 0 then s.busy else if n = 1 then s.done else if n = 2 then s.err else if n = 3 then s.errOvf
      else if n = 4 then s.schedValid else if n < 7 then s.schedKsize.getLsbD (n - 5) else if n = 7 then false
      else if n < 16 then s.keyWr.getLsbD (n - 8) else s.errCode.bits.getLsbD (n - 16) := by
  rcases Nat.lt_or_ge n 32 with hlt | hge
  · simp only [statusWord, BitVec.getLsbD_setWidth, BitVec.getLsbD_append, BitVec.getLsbD_ofBool]
    interval_cases n <;> simp
  · have hcode : s.errCode.bits.getLsbD (n - 16) = false := BitVec.getLsbD_of_ge _ _ (by omega)
    rw [BitVec.getLsbD_of_ge _ _ hge, hcode]
    grind

/-- Settles O49, by the bits of the two words. -/
theorem ctrlAndStatusReadLayout : Obligations.CtrlAndStatusReadLayout := by
  intro s rest
  refine ⟨fun h => ⟨ctrlWord s, step_read .ctrl h, ?_⟩, fun h => ⟨statusWord s, step_read .status h, ?_⟩⟩
  · have hksize : (ctrlWord s).extractLsb' 0 2 = s.ksize :=
      extractLsb'_eq_of_bits fun j hj => by grind [getLsbD_ctrlWord]
    have hzero : (ctrlWord s).extractLsb' 3 29 = 0 :=
      extractLsb'_eq_of_bits fun j hj => by grind [getLsbD_ctrlWord]
    exact ⟨hksize, getLsbD_ctrlWord s 2, hzero⟩
  · have hschedKsize : (statusWord s).extractLsb' 5 2 = s.schedKsize :=
      extractLsb'_eq_of_bits fun j hj => by grind [getLsbD_statusWord]
    have hkeyWr : (statusWord s).extractLsb' 8 8 = s.keyWr :=
      extractLsb'_eq_of_bits fun j hj => by grind [getLsbD_statusWord]
    have hcode : (statusWord s).extractLsb' 16 4 = s.errCode.bits :=
      extractLsb'_eq_of_bits fun j hj => by grind [getLsbD_statusWord]
    have hzero : (statusWord s).extractLsb' 20 12 = 0 :=
      extractLsb'_eq_of_bits fun j hj => by grind [getLsbD_statusWord]
    exact ⟨getLsbD_statusWord s 0, getLsbD_statusWord s 1, getLsbD_statusWord s 2, getLsbD_statusWord s 3,
      getLsbD_statusWord s 4, hschedKsize, getLsbD_statusWord s 7, hkeyWr, hcode, hzero⟩

/-- Reads do not see K: they commute with any change of it (R36). -/
theorem busRead_key (off : BitVec 12) (size : Nat) (s : State) (k : Vector Word 8) :
    busRead off size { s with key := k } = { busRead off size s with key := k } := by
  have hdata (w : Word) : readData w { s with key := k } = { readData w s with key := k } := by
    unfold readData
    split <;> rfl
  unfold busRead
  cases accessed off size with
  | none => rfl
  | some r =>
    cases r with
    | state | result | rkey => exact hdata _
    | _ => rfl

/-- Settles O59: the two reads give states that differ in K only. -/
theorem keyRegistersCannotBeRead : Obligations.KeyRegistersCannotBeRead := by
  intro s t off size rest hst h
  have ht : t.events = .read off size :: rest := by rw [← hst]; exact h
  refine ⟨_, _, step_of_event h, step_of_event ht, ?_⟩
  have hread : busRead off size { t with events := rest } =
      { busRead off size { s with events := rest } with key := t.key } := by
    rw [← busRead_key, ← hst]
  rw [hread]
  exact ⟨rfl, rfl⟩

/-! ## Writes (R21, R26, R31, R35 to R37) -/

/-- A data write while BUSY = 0 is performed (R66). -/
theorem whenIdle_answered (h : s.busy = false) (write : State → State) (r : Response) :
    whenIdle write (answered r rest s) = write (answered r rest s) := whenIdle_of_idle h

/-- Settles O50, by what a STATUS write does. -/
theorem statusWriteClears : Obligations.StatusWriteClears := by
  intro s v rest h
  rw [step_write .status h, writeReg, writeStatus_eq]
  rfl

/-- Settles O51. -/
theorem ctrlWriteSetsItsFields : Obligations.CtrlWriteSetsItsFields := by
  intro s v rest hb hv h
  rw [step_write .ctrl h, writeReg, writeCtrl, if_neg (Bool.eq_false_iff.mp hv), whenIdle_answered hb]

/-- `S[r][c']` after a write of v to STATEc (R35). -/
theorem Block.get_setStateWord (b : Block) (c : Fin 4) (v : Word) (r c' : Fin 4) :
    (b.setStateWord c v).get r c' = if c' = c then byteOf v r else b.get r c' := Block.get_ofFn _ r c'

/-- Settles O52. -/
theorem stateWriteSetsItsColumn : Obligations.StateWriteSetsItsColumn := by
  intro s c v rest hb h
  refine ⟨s.block.setStateWord c v, ?_, fun r => ?_, fun r c' hc => ?_, ?_⟩
  · rw [step_write (.state c) h, writeReg, whenIdle_answered hb]
    rfl
  · rw [Block.get_setStateWord, if_pos rfl]
  · rw [Block.get_setStateWord, if_neg hc]
  · exact s.block.stateWord_setStateWord_self c v

/-- A write of KEYk sets bit k of KEY_WR and no other (R31). -/
theorem getLsbD_setKeyWr (m : BitVec 8) (k j : Fin 8) :
    (setKeyWr m k).getLsbD j = if j = k then true else m.getLsbD j := by
  have hbit : (1#8 <<< k.val).getLsbD j.val = decide (j = k) := by
    revert k j
    decide
  rw [setKeyWr, BitVec.getLsbD_or, hbit]
  by_cases h : j = k <;> simp [h]

/-- Settles O53, register by register. -/
theorem dataWritesSetTheirRegister : Obligations.DataWritesSetTheirRegister := by
  intro s v rest
  refine ⟨fun hb => ⟨fun k h => ?_, fun h => ?_, fun h => ?_⟩, ?_⟩
  · refine ⟨s.key.set k v, setKeyWr s.keyWr k, ?_, fun j => ?_, getLsbD_setKeyWr s.keyWr k⟩
    · rw [step_write (.key k) h, writeReg, whenIdle_answered hb]
      rfl
    · simp [Vector.getElem_set, Fin.ext_iff, eq_comm]
  · rw [step_write .opa h, writeReg, whenIdle_answered hb]
  · rw [step_write .opb h, writeReg, whenIdle_answered hb]
  · rintro r (rfl | rfl | ⟨i, rfl⟩) h <;> exact step_write _ h

end Sys2Proof.Machine

namespace Sys2Proof.Machine

variable {s : State} {rest : List Event}

/-! ## Legal and illegal accesses (R61 to R63) -/

/-- Settles O44, by the address map read both ways. -/
theorem addressMapIsExact : Obligations.AddressMapIsExact :=
  ⟨accessed_offset, fun _ _ _ => eq_offset_of_accessed⟩

/-- The offsets of the map are aligned, and lie in 0x000..0x048 or in 0x100..0x1EC (R61, R63). -/
theorem Reg.offset_range (r : Reg) :
    r.offset.toNat % 4 = 0 ∧ (r.offset.toNat ≤ 0x048 ∨ (0x100 ≤ r.offset.toNat ∧ r.offset.toNat ≤ 0x1EC)) := by
  cases r with
  | state | key | rkey =>
    simp only [Reg.offset, BitVec.toNat_ofNat]
    omega
  | _ => decide

/-- A narrow, misaligned or unmapped access reaches no register (R61, R62). -/
theorem accessed_eq_none {off : BitVec 12} {size : Nat}
    (h : size ≠ 4 ∨ off.toNat % 4 ≠ 0 ∨ (0x04C ≤ off.toNat ∧ off.toNat ≤ 0x0FC) ∨ 0x1F0 ≤ off.toNat) :
    accessed off size = none := by
  rw [Option.eq_none_iff_forall_ne_some]
  intro r hr
  obtain ⟨hsize, rfl⟩ := eq_offset_of_accessed hr
  have hrange := r.offset_range
  omega

/-- Settles O45: an access that reaches no register is answered by BUSERR alone. -/
theorem illegalAccessesReturnBusErr : Obligations.IllegalAccessesReturnBusErr := by
  intro s off size rest hillegal
  have hnone := accessed_eq_none hillegal
  refine ⟨fun h => ?_, fun v h => ?_⟩
  · rw [step_of_event h, perform, busRead, hnone]
    rfl
  · rw [step_of_event h, perform, busWrite, hnone]
    rfl

/-! ## Reads that are free, and reads in general (R64, R67) -/

/-- Settles O46, by the frame of a bus read. -/
theorem readsHaveNoSideEffects : Obligations.ReadsHaveNoSideEffects := by
  intro s off size rest h
  obtain ⟨r, n, hread⟩ := busRead_frame off size { s with events := rest }
  exact ⟨r, n, (step_of_event h).trans (congrArg _ hread)⟩

/-- A read of STATE, RESULT or RKEY while BUSY = 1 returns the next free value, whatever the register holds (R67). -/
theorem readData_of_busy (h : s.busy = true) (w : Word) (rest : List Event) :
    readData w { s with events := rest } =
      { answered (.data (Config.draw s.draws)) rest s with draws := s.draws + 1 } := by
  unfold readData
  exact if_pos h

/-- Settles O47: the three kinds of register are read through `readData`. -/
theorem busyDataReadsAreFree : Obligations.BusyDataReadsAreFree := by
  intro s r rest hb h hr
  rw [step_read r h]
  rcases hr with ⟨c, rfl⟩ | rfl | ⟨i, rfl⟩ <;> exact congrArg _ (readData_of_busy hb _ rest)

/-! ## Writes while BUSY = 1 (R66) -/

/-- A write of a data register, of CMD, or of CTRL without SRST while BUSY = 1 does nothing but record a BUSY error. -/
theorem writeReg_of_busy {r : Reg} {v : Word} (hb : s.busy = true)
    (hr : r = .cmd ∨ (∃ c, r = .state c) ∨ (∃ k, r = .key k) ∨ r = .opa ∨ r = .opb ∨
      (r = .ctrl ∧ v.getLsbD 31 = false)) :
    writeReg r v s = .next (raiseError .busy s) := by
  rcases hr with rfl | ⟨c, rfl⟩ | ⟨k, rfl⟩ | rfl | rfl | ⟨rfl, hv⟩
  · exact writeCmd_of_busy hb v
  · exact congrArg _ (whenIdle_of_busy hb)
  · exact congrArg _ (whenIdle_of_busy hb)
  · exact congrArg _ (whenIdle_of_busy hb)
  · exact congrArg _ (whenIdle_of_busy hb)
  · rw [writeReg, writeCtrl, if_neg (Bool.eq_false_iff.mp hv), whenIdle_of_busy hb]

/-- Settles O54, by what recording an error does with none recorded and with one. -/
theorem writesWhileBusyAreDropped : Obligations.WritesWhileBusyAreDropped := by
  intro s r v rest hb h hr
  have hbusy : (answered .okay rest s).busy = true := hb
  rw [step_write r h, writeReg_of_busy hbusy hr]
  exact ⟨fun he => congrArg _ (raiseError_of_no_error (s := answered .okay rest s) he .busy),
    fun he => congrArg _ (raiseError_of_error (s := answered .okay rest s) he .busy)⟩

end Sys2Proof.Machine

namespace Sys2Proof

variable {c : Word} {i j : Instr}

/-! ## The decoder by the three fields of a word (R90, R93, R95, R98) -/

/-- The whole of `decode`: what a word must be to decode to i. -/
theorem decode_eq_ok_iff :
    decode c = .ok i ↔
      reservedField c = 0 ∧ commandOf (opcodeField c) (rndField c) = some i ∧
        (opcodeField c = 0x16 ∨ rndField c = 0) := by
  unfold decode
  by_cases hreserved : reservedField c = 0#20
  · cases commandOf (opcodeField c) (rndField c) with
    | none => simp [hreserved]
    | some k => by_cases hfree : opcodeField c = 0x16#8 ∨ rndField c = 0#4 <;> simp [hreserved, hfree, ← not_or]
  · simp [hreserved]

/-- The reserved OPCODEs are three ranges (R95). -/
theorem commandOf_eq_none_iff {op : BitVec 8} {rnd : BitVec 4} :
    commandOf op rnd = none ↔
      (0x06 ≤ op.toNat ∧ op.toNat ≤ 0x0F) ∨ (0x17 ≤ op.toNat ∧ op.toNat ≤ 0x1F) ∨ 0x25 ≤ op.toNat := by
  unfold commandOf
  split
  case h_19 =>
    simp only [true_iff, imp_false, BitVec.toNat_eq, BitVec.toNat_ofNat] at *
    omega
  all_goals simp

/-- Which words decode. -/
theorem exists_decode_iff :
    (∃ i, decode c = .ok i) ↔
      reservedField c = 0 ∧
        ¬ ((0x06 ≤ (opcodeField c).toNat ∧ (opcodeField c).toNat ≤ 0x0F) ∨
          (0x17 ≤ (opcodeField c).toNat ∧ (opcodeField c).toNat ≤ 0x1F) ∨ 0x25 ≤ (opcodeField c).toNat) ∧
        ((opcodeField c).toNat = 0x16 ∨ rndField c = 0) := by
  have hop : opcodeField c = 0x16 ↔ (opcodeField c).toNat = 0x16 := BitVec.toNat_inj.symm
  simp only [decode_eq_ok_iff, exists_and_left, exists_and_right, ← Option.ne_none_iff_exists', ne_eq,
    commandOf_eq_none_iff, hop]

/-- The round index read from RND fits RND (R92). -/
theorem wellFormed_of_commandOf {op : BitVec 8} {rnd : BitVec 4} (h : commandOf op rnd = some i) :
    i.wellFormed = true := by
  have hrnd : rnd.toNat ≤ 15 := Nat.le_of_lt_succ rnd.isLt
  unfold commandOf at h
  split at h <;> cases h <;> simp [Instr.wellFormed, hrnd]

/-- The map R94 read forwards: a well-formed command is the one its OPCODE and RND name. -/
theorem commandOf_opcode (h : i.wellFormed = true) : commandOf i.opcode i.rndBits = some i := by
  cases i with
  | addRoundKey rnd =>
    have hrnd : rnd ≤ 15 := of_decide_eq_true h
    have hval : (BitVec.ofNat 4 rnd).toNat = rnd := Nat.mod_eq_of_lt (by omega)
    exact congrArg (some ∘ Instr.addRoundKey) hval
  | _ => rfl

/-- Only ADD_ROUND_KEY has RND in its word (R93). -/
theorem opcode_eq_or_rndBits_eq_zero (i : Instr) : i.opcode = 0x16 ∨ i.rndBits = 0 := by
  cases i with
  | addRoundKey => exact .inl rfl
  | _ => exact .inr rfl

theorem decode_encode (h : i.wellFormed = true) : decode (encode i) = .ok i := by
  rw [decode_eq_ok_iff, encode, reservedField_formatC, opcodeField_formatC, rndField_formatC]
  exact ⟨rfl, commandOf_opcode h, opcode_eq_or_rndBits_eq_zero i⟩

theorem wellFormed_of_decode (h : decode c = .ok i) : i.wellFormed = true := by
  obtain ⟨-, hcommand, -⟩ := decode_eq_ok_iff.mp h
  exact wellFormed_of_commandOf hcommand

/-- Settles O3, by the fields of the word. -/
theorem decodeEncodeAgree : Obligations.DecodeEncodeAgree :=
  ⟨fun _ => decode_encode, fun _ _ h => ⟨wellFormed_of_decode h, encode_of_decode h⟩⟩

/-! ## The rows of the opcode map (R94) -/

/-- A command's word selects its row, command by command. -/
theorem row_selects_encode : ∀ i, Laws.TableRow.Statement i
  | .nop => Laws.TableRow.nop
  | .keyExpand => Laws.TableRow.keyExpand
  | .encrypt => Laws.TableRow.encrypt
  | .decrypt => Laws.TableRow.decrypt
  | .zeroize => Laws.TableRow.zeroize
  | .clearKey => Laws.TableRow.clearKey
  | .subBytes => Laws.TableRow.subBytes
  | .invSubBytes => Laws.TableRow.invSubBytes
  | .shiftRows => Laws.TableRow.shiftRows
  | .invShiftRows => Laws.TableRow.invShiftRows
  | .mixColumns => Laws.TableRow.mixColumns
  | .invMixColumns => Laws.TableRow.invMixColumns
  | .addRoundKey rnd => Laws.TableRow.addRoundKey rnd
  | .gfMul => Laws.TableRow.gfMul
  | .sbox => Laws.TableRow.sbox
  | .invSbox => Laws.TableRow.invSbox
  | .subWord => Laws.TableRow.subWord
  | .rotWord => Laws.TableRow.rotWord

/-- A row whose mask is all ones is selected by its own word only. -/
theorem decode_of_exact_row_selects (hj : j.wellFormed = true) (hmask : j.row.maskWord = BitVec.allOnes 32)
    (hmatch : j.row.matchWord = encode j) (h : j.row.selects c = true) : decode c = .ok j := by
  rw [OpcodeRow.selects, hmask, BitVec.and_allOnes, hmatch] at h
  rw [eq_of_beq h]
  exact decode_encode hj

/-- A field that a mask keeps whole is the masked word's. -/
theorem extractLsb'_eq_of_and_eq {mask w : Word} {start len : Nat} (h : c &&& mask = w)
    (hmask : mask.extractLsb' start len = BitVec.allOnes len) : c.extractLsb' start len = w.extractLsb' start len := by
  rw [← h, BitVec.extractLsb'_and, hmask, BitVec.and_allOnes]

/-- The mask of ADD_ROUND_KEY's row leaves RND free: the word's OPCODE is 0x16 and its reserved bits are 0. -/
theorem decode_of_addRoundKey_selects {rnd : Nat} (h : (Instr.addRoundKey rnd).row.selects c = true) :
    decode c = .ok (.addRoundKey (rndField c).toNat) := by
  have hword : c &&& 0xFFFFF0FF = 0x00000016 := eq_of_beq h
  have hop : opcodeField c = 0x16 := extractLsb'_eq_of_and_eq hword rfl
  have hreserved : reservedField c = 0 := extractLsb'_eq_of_and_eq hword rfl
  rw [decode_eq_ok_iff, hop]
  exact ⟨hreserved, rfl, .inl rfl⟩

/-- A word that selects a row decodes to the row's command. -/
theorem decode_of_selects (h : j.row.selects c = true) : ∃ i, decode c = .ok i ∧ i.row = j.row := by
  cases j with
  | addRoundKey => exact ⟨_, decode_of_addRoundKey_selects h, rfl⟩
  | _ => refine ⟨_, decode_of_exact_row_selects ?_ ?_ ?_ h, rfl⟩ <;> decide

/-- Settles O4: the word of a command selects its row, and the row's mask and match leave no other word. -/
theorem opcodeMapSelectsTheDecodedCommand : Obligations.OpcodeMapSelectsTheDecodedCommand := by
  intro c
  refine ⟨fun i h => ?_, fun _ => decode_of_selects⟩
  rw [← encode_of_decode h]
  exact row_selects_encode i (wellFormed_of_decode h)

/-- Settles O6, by running the decoder. -/
theorem sampleWordsDecode : Obligations.SampleWordsDecode := by
  unfold Obligations.SampleWordsDecode
  decide

namespace Machine

variable {s : State} {rest : List Event}

/-! ## The assembler (R99) -/

/-- The mnemonics of the opcode map are distinct, and none of the plain ones is ADD_ROUND_KEY (R94). -/
theorem plainCommands_mnemonics : ∀ i ∈ plainCommands,
    (plainCommands.find? fun j => j.row.mnemonic == i.row.mnemonic) = some i ∧ i.row.mnemonic ≠ "ADD_ROUND_KEY" := by
  decide

/-- Settles O7. -/
theorem assemblerTakesTheTableSyntax : Obligations.AssemblerTakesTheTableSyntax := by
  refine ⟨fun i hi => ?_, fun n hn => if_pos ⟨rfl, hn⟩, fun n hn => if_neg fun h => ?_, by decide⟩
  · obtain ⟨hfind, hne⟩ := plainCommands_mnemonics i hi
    exact ⟨hfind, fun n => if_neg fun h => hne h.1⟩
  · exact absurd h.2 (Nat.not_le.mpr hn)

/-! ## The step of a CMD write and of an engine turn (R98, R189, R233) -/

/-- Returning a response does not end idleness. -/
theorem Idle.answered (h : Idle s) (r : Response) (rest : List Event) : Idle (answered r rest s) := ⟨h.busy, h.err⟩

/-- A CMD write of an illegal word on an idle engine records ILLEGAL_CMD (R231, R233). -/
theorem step_of_illegal {x : DecodeError} (h : Idle s) (hevents : s.events = .write 0x008 4 c :: rest)
    (hc : decode c = .error x) :
    step s = .next { answered .okay rest s with err := true, errCode := .illegalCmd } := by
  have hi : Idle (answered .okay rest s) := h.answered .okay rest
  rw [step_write .cmd hevents, writeReg, writeCmd_of_illegal hi hc, raiseError_of_no_error hi.err]

/-- Settles O5, by which words decode. -/
theorem illegalWordsAreRefused : Obligations.IllegalWordsAreRefused := by
  intro c op illegal
  have hdecodes : (∃ i, decode c = .ok i) ↔ ¬ illegal := by
    simp only [exists_decode_iff, illegal, op, opcodeField, rndField, reservedField]
    tauto
  refine ⟨fun hillegal s rest hidle hevents => ?_, hdecodes.mpr⟩
  cases hc : decode c with
  | error x => exact step_of_illegal hidle hevents hc
  | ok i => exact absurd hillegal (hdecodes.mp ⟨i, hc⟩)

/-- When the engine is next, the step is its turn (R189). -/
theorem step_of_engineNext (h : EngineNext s) : step s = engineTurn { s with events := s.events.tail } := by
  rcases h with hnil | ⟨rest, hcons⟩
  · rw [step_of_no_event hnil]
    congr 1
    rw [hnil, List.tail_nil, ← hnil]
  · rw [step_of_event hcons, hcons]
    rfl

/-- Settles O13: a CMD write decodes its word, an engine turn the latched one. -/
theorem stepRunsTheDecodedCommand : Obligations.StepRunsTheDecodedCommand := by
  refine ⟨fun s c i rest hidle hevents hc => ?_, fun s i hbusy hnext hc => ?_⟩
  · rw [step_write .cmd hevents]
    exact writeCmd_of_decoded (hidle.answered .okay rest) hc
  · have hlatched : latchedCommand { s with events := s.events.tail } = some i := by
      rw [BitVec.or_comm] at hc
      exact congrArg Except.toOption hc
    rw [step_of_engineNext hnext]
    exact engineTurn_of_latched hbusy hlatched

end Machine
end Sys2Proof

namespace Sys2Proof.Machine

/-! ## The multiplier's loop (R110) -/

/-- The mask keeps x or drops it (R110). -/
theorem and_bitMask (x : Byte) (b : Bool) : x &&& bitMask b = if b then x else 0 := by
  cases b with
  | true => exact BitVec.and_allOnes
  | false => exact BitVec.and_zero

theorem xor_and_bitMask (x x' : Byte) (b : Bool) :
    (x ^^^ x') &&& bitMask b = (x &&& bitMask b) ^^^ (x' &&& bitMask b) := by
  cases b <;> simp [and_bitMask]

theorem and_bitMask_xor (x : Byte) (b b' : Bool) :
    x &&& bitMask (b ^^ b') = (x &&& bitMask b) ^^^ (x &&& bitMask b') := by
  cases b <;> cases b' <;> simp [and_bitMask]

/-- Doubling is linear (R110). -/
theorem xtime_xor (x x' : Byte) : xtime (x ^^^ x') = xtime x ^^^ xtime x' := by
  simp only [xtime, BitVec.shiftLeft_xor_distrib, BitVec.getLsbD_xor, and_bitMask_xor]
  ac_rfl

theorem xtime_zero : xtime 0 = 0 := by decide

/-- The loop is linear in x and the accumulator together (R110). -/
theorem gmulLoop_xor (n : Nat) (x x' y acc acc' : Byte) :
    gmulLoop n (x ^^^ x') y (acc ^^^ acc') = gmulLoop n x y acc ^^^ gmulLoop n x' y acc' := by
  induction n generalizing x x' y acc acc' with
  | zero => rfl
  | succ n ih =>
    have hacc : (acc ^^^ acc') ^^^ ((x ^^^ x') &&& bitMask (y.getLsbD 0)) =
        (acc ^^^ (x &&& bitMask (y.getLsbD 0))) ^^^ (acc' ^^^ (x' &&& bitMask (y.getLsbD 0))) := by
      rw [xor_and_bitMask]
      ac_rfl
    rw [gmulLoop, xtime_xor, hacc, ih]
    rfl

/-- Doubling x and the accumulator doubles what the loop answers (R110). -/
theorem gmulLoop_xtime (n : Nat) (x y acc : Byte) :
    gmulLoop n (xtime x) y (xtime acc) = xtime (gmulLoop n x y acc) := by
  induction n generalizing x y acc with
  | zero => rfl
  | succ n ih =>
    have hacc : xtime acc ^^^ (xtime x &&& bitMask (y.getLsbD 0)) = xtime (acc ^^^ (x &&& bitMask (y.getLsbD 0))) := by
      rw [xtime_xor, and_bitMask, and_bitMask, apply_ite xtime, xtime_zero]
    rw [gmulLoop, hacc, ih]
    rfl

/-- What the loop answers is built from x and the accumulator by doubling and XOR. -/
theorem gmulLoop_induction {P : Byte → Prop} (zero : P 0) (double : ∀ x, P x → P (xtime x))
    (xor : ∀ x x', P x → P x' → P (x ^^^ x')) (n : Nat) {x acc : Byte} (y : Byte) (hx : P x) (hacc : P acc) :
    P (gmulLoop n x y acc) := by
  induction n generalizing x y acc with
  | zero => exact hacc
  | succ n ih =>
    refine ih _ (double x hx) (xor _ _ hacc ?_)
    rw [and_bitMask]
    split
    · exact hx
    · exact zero

/-! ## The field laws (R111) -/

theorem gmul_xor_left (x x' y : Byte) : gmul (x ^^^ x') y = gmul x y ^^^ gmul x' y := gmulLoop_xor 8 x x' y 0 0

theorem gmul_xtime_left (x y : Byte) : gmul (xtime x) y = xtime (gmul x y) := gmulLoop_xtime 8 x y 0

/-- 0x01 is the identity on the left (R111). -/
theorem gmul_one_left (y : Byte) : gmul 0x01 y = y := by
  revert y
  decide

/-- Every byte is built from 0x01 by doubling and XOR, because it is its own product with 0x01. -/
theorem byte_induction {P : Byte → Prop} (one : P 0x01) (double : ∀ x, P x → P (xtime x))
    (xor : ∀ x x', P x → P x' → P (x ^^^ x')) (x : Byte) : P x := by
  have zero : P 0 := xor 0x01 0x01 one one
  rw [← gmul_one_left x]
  exact gmulLoop_induction zero double xor 8 x one zero

theorem gmul_xor_right (x y z : Byte) : gmul x (y ^^^ z) = gmul x y ^^^ gmul x z := by
  induction x using byte_induction with
  | one => simp only [gmul_one_left]
  | double x ih => simp only [gmul_xtime_left, ih, xtime_xor]
  | xor x x' ih ih' =>
    simp only [gmul_xor_left, ih, ih']
    ac_rfl

theorem gmul_xtime_right (x y : Byte) : gmul x (xtime y) = xtime (gmul x y) := by
  induction x using byte_induction with
  | one => simp only [gmul_one_left]
  | double x ih => simp only [gmul_xtime_left, ih]
  | xor x x' ih ih' => simp only [gmul_xor_left, ih, ih', xtime_xor]

theorem gmul_one_right (x : Byte) : gmul x 0x01 = x := by
  induction x using byte_induction with
  | one => exact gmul_one_left 0x01
  | double x ih => rw [gmul_xtime_left, ih]
  | xor x x' ih ih' => rw [gmul_xor_left, ih, ih']

theorem gmul_comm (x y : Byte) : gmul x y = gmul y x := by
  induction x using byte_induction with
  | one => rw [gmul_one_left, gmul_one_right]
  | double x ih => rw [gmul_xtime_left, gmul_xtime_right, ih]
  | xor x x' ih ih' => rw [gmul_xor_left, gmul_xor_right, ih, ih']

theorem gmul_assoc (x y z : Byte) : gmul (gmul x y) z = gmul x (gmul y z) := by
  induction x using byte_induction with
  | one => rw [gmul_one_left, gmul_one_left]
  | double x ih => rw [gmul_xtime_left, gmul_xtime_left, gmul_xtime_left, ih]
  | xor x x' ih ih' => rw [gmul_xor_left, gmul_xor_left, gmul_xor_left, ih, ih']

/-! ## The tables (R113 to R116) -/

/-- The affine map of the generation rule undone: of an S-box entry, the field inverse it was made from (R115). -/
def invAffine (c : Byte) : Byte := rotl8 c 1 ^^^ rotl8 c 3 ^^^ rotl8 c 6 ^^^ 0x05

theorem sboxAffine_invAffine (c : Byte) : sboxAffine (invAffine c) = c := by
  revert c
  decide

/-- The S-box table holds the field inverse of every non-zero byte, entry by entry (R113, R115). -/
theorem gmul_invAffine_sbox : ∀ b : Byte, b ≠ 0 → gmul (invAffine (sbox b)) b = 0x01 := by decide

/-- Settles O23: the laws hold of 0x01 and are kept by doubling and XOR; the inverses stand in the S-box table. -/
theorem fieldLaws : Obligations.FieldLaws :=
  ⟨gmul_comm, gmul_assoc, gmul_xor_right, gmul_one_left,
    fun x hx => ⟨invAffine (sbox x), (gmul_comm _ _).trans (gmul_invAffine_sbox x hx)⟩⟩

/-- Settles O24: the affine map undone gives 0 for the entry of 0, and the inverse for every other entry. -/
theorem sboxGenerationRule : Obligations.SboxGenerationRule := by
  intro b
  refine ⟨invAffine (sbox b), ?_, (sboxAffine_invAffine (sbox b)).symm⟩
  split
  · subst b
    decide
  · exact gmul_invAffine_sbox b (by assumption)

/-- Settles O25, entry by entry. -/
theorem tablesAreInverse : Obligations.TablesAreInverse := by
  unfold Obligations.TablesAreInverse
  decide

/-- Settles O26, constant by constant. -/
theorem roundConstants : Obligations.RoundConstants := by
  unfold Obligations.RoundConstants
  decide

end Sys2Proof.Machine

namespace Sys2Proof.Machine

variable {s : State} {i : Instr}

/-! ## The byte operands of GF_MUL, SBOX and INV_SBOX (R118 to R120) -/

/-- An operand register holds no byte when it is above 0xFF. -/
theorem exceedsByte_eq_decide (w : Word) : exceedsByte w = decide (0xFF < w.toNat) := by
  have hlt : w.toNat < 2 ^ 32 := w.isLt
  have hzero : w.extractLsb' 8 24 = 0#24 ↔ ¬ 0xFF < w.toNat := by
    rw [← BitVec.toNat_inj, BitVec.extractLsb'_toNat, Nat.shiftRight_eq_div_pow, BitVec.toNat_ofNat]
    omega
  rw [exceedsByte, bne, beq_eq_decide, ← decide_not, decide_eq_decide, BitVec.ofNat_eq_ofNat, hzero, not_not]

theorem checkOpa_eq (s : State) : checkOpa s = if 0xFF < s.opa.toNat then .refuse .operandRange else .pass := by
  simp only [checkOpa, exceedsByte_eq_decide, decide_eq_true_eq]

theorem checkOpaOpb_eq (s : State) :
    checkOpaOpb s = if 0xFF < s.opa.toNat ∨ 0xFF < s.opb.toNat then .refuse .operandRange else .pass := by
  simp only [checkOpaOpb, exceedsByte_eq_decide, Bool.or_eq_true, decide_eq_true_eq]

/-- A refused command on an idle engine with no error recorded only records the code (R231, R233). -/
theorem exec_of_idle_refuse {code : ErrCode} (h : Idle s) (hc : checkOf i s = .refuse code) :
    exec i s = .next { s with err := true, errCode := code } := by
  rw [exec_of_refuse h hc, raiseError_of_no_error h.err]

/-- SBOX and INV_SBOX check OPA alone (R119, R120). -/
theorem exec_of_checkOpa (hi : checkOf i = checkOpa) (h : Idle s) :
    (0xFF < s.opa.toNat → exec i s = .next { s with err := true, errCode := .operandRange }) ∧
      (s.opa.toNat ≤ 0xFF → exec i s = .next (acceptedBy i s)) := by
  have hcheck : checkOf i s = if 0xFF < s.opa.toNat then .refuse .operandRange else .pass := hi ▸ checkOpa_eq s
  exact ⟨fun hout => exec_of_idle_refuse h (hcheck.trans (if_pos hout)),
    fun hin => exec_of_pass h (hcheck.trans (if_neg (Nat.not_lt.mpr hin)))⟩

/-- Settles O12: the check of each command is a bound on its operands. -/
theorem byteOperandsAreChecked : Obligations.ByteOperandsAreChecked := by
  intro s h
  refine ⟨fun hout => ?_, fun ha hb => ?_, fun p hp => ?_⟩
  · exact exec_of_idle_refuse h ((checkOpaOpb_eq s).trans (if_pos hout))
  · exact exec_of_pass h ((checkOpaOpb_eq s).trans (if_neg (by omega)))
  · simp only [List.mem_cons, List.not_mem_nil, or_false] at hp
    rcases hp with rfl | rfl
    · exact exec_of_checkOpa rfl h
    · exact exec_of_checkOpa rfl h

/-! ## The commands that write RESULT (R118 to R120, R138, R139) -/

theorem lowByte_eq_setWidth (w : Word) : lowByte w = w.setWidth 8 :=
  (BitVec.setWidth_eq_extractLsb' (by decide)).symm

/-- Settles O21: the engine step of a single-operation command is its effect and the completion. -/
theorem resultCommandSteps : Obligations.ResultCommandSteps := by
  intro s h
  simp only [← lowByte_eq_setWidth]
  exact ⟨exec_of_prim rfl h, exec_of_prim rfl h, exec_of_prim rfl h, exec_of_prim rfl h, exec_of_prim rfl h⟩

end Sys2Proof.Machine

namespace Sys2Proof.Machine

variable {s t : State} {i : Instr} {v : Variant}

/-! ## The engine steps a command still takes (R141, R186) -/

theorem stepsLeft_of_idle (h : s.fsm = .idle) : stepsLeft s = 0 := by
  simp only [stepsLeft, h]

theorem stepsLeft_of_prim (h : s.fsm = .prim) : stepsLeft s = 1 := by
  simp only [stepsLeft, h]

theorem stepsLeft_of_kexp (h : s.fsm = .kexp) (hv : variantOf s.xKsize = some v) :
    stepsLeft s = if s.ctr = 0 then 1 + (v.words - v.nk) else v.words - s.ctr.toNat := by
  simp only [stepsLeft, h, hv]

theorem stepsLeft_of_cipher (h : s.fsm = .enc ∨ s.fsm = .dec) (hv : variantOf s.schedKsize = some v) :
    stepsLeft s = v.nr + 1 - s.ctr.toNat := by
  rcases h with h | h <;> simp only [stepsLeft, h, hv]

/-- The count depends on the class, the progress and the key size only (R112). -/
theorem stepsLeft_congr (hf : s.fsm = t.fsm) (hc : s.ctr = t.ctr) (hk : s.schedKsize = t.schedKsize)
    (hx : s.xKsize = t.xKsize) : stepsLeft s = stepsLeft t := by
  simp only [stepsLeft, hf, hc, hk, hx]

/-- Under the invariant a command in progress has a step left, and an idle engine none. -/
theorem stepsLeft_pos_iff (h : Inv s) : 0 < stepsLeft s ↔ s.busy = true := by
  rw [h.busy_iff]
  have cipher (hf : s.fsm = .enc ∨ s.fsm = .dec) : 0 < stepsLeft s := by
    obtain ⟨-, v, hv, hle⟩ := (progressOk_cipher hf).mp h.progress
    rw [stepsLeft_of_cipher hf hv]
    omega
  cases hf : s.fsm with
  | idle => simp [stepsLeft_of_idle hf]
  | prim => simp [stepsLeft_of_prim hf]
  | kexp =>
    obtain ⟨-, v, hv, hc⟩ := (progressOk_kexp hf).mp h.progress
    have hpos : 0 < stepsLeft s := by
      rw [stepsLeft_of_kexp hf hv]
      split
      · omega
      · have := hc.resolve_left (by assumption)
        omega
    simpa using hpos
  | enc => simpa using cipher (.inl hf)
  | dec => simpa using cipher (.inr hf)

/-! ## Every engine step goes on and uses up one of them (R188, R189) -/

theorem exists_kexpStep (hv : variantOf s.xKsize = some v)
    (hc : s.ctr = 0 ∨ (v.nk ≤ s.ctr.toNat ∧ s.ctr.toNat < v.words)) : ∃ t, kexpStep s = .next t := by
  simp only [kexpStep, hv]
  by_cases h0 : s.ctr = 0
  · exact ⟨_, if_pos h0⟩
  · exact ⟨_, (if_neg h0).trans (if_pos (hc.resolve_left h0))⟩

/-- The three steps of ENCRYPT and DECRYPT cover every CTR up to Nr (R183, R185). -/
theorem exists_roundChoice {k nr : Nat} (h : k ≤ nr) (first middle last : State) (stuck : Result) :
    ∃ t, (if k = 0 then .next first else if k < nr then .next middle else if k = nr then .next last else stuck) =
      Host.Outcome.next t := by
  split
  · exact ⟨first, rfl⟩
  split
  · exact ⟨middle, rfl⟩
  · exact ⟨last, if_pos (by omega)⟩

theorem exists_encStep (hv : variantOf s.schedKsize = some v) (hc : s.ctr.toNat ≤ v.nr) :
    ∃ t, encStep s = .next t := by
  simp only [encStep, hv]
  exact exists_roundChoice hc _ _ _ _

theorem exists_decStep (hv : variantOf s.schedKsize = some v) (hc : s.ctr.toNat ≤ v.nr) :
    ∃ t, decStep s = .next t := by
  simp only [decStep, hv]
  exact exists_roundChoice hc _ _ _ _

/-- A command whose progress is in range makes an engine step. -/
theorem exists_engineStep (h : Inv s) (hr : Running (classOf i) s) : ∃ t, engineStepOf i s = .next t := by
  cases i with
  | keyExpand =>
    obtain ⟨-, v, hv, hc⟩ := (progressOk_kexp hr.fsm).mp h.progress
    exact exists_kexpStep hv hc
  | encrypt =>
    obtain ⟨-, v, hv, hc⟩ := (progressOk_cipher (.inl hr.fsm)).mp h.progress
    exact exists_encStep hv hc
  | decrypt =>
    obtain ⟨-, v, hv, hc⟩ := (progressOk_cipher (.inr hr.fsm)).mp h.progress
    exact exists_decStep hv hc
  | _ => exact ⟨_, rfl⟩

@[simp] theorem primEffect_events (i : Instr) (s : State) : (primEffect i s).events = s.events := by cases i <;> rfl

/-- An engine step takes no input. -/
theorem EngineCase.events (h : EngineCase i s t) : t.events = s.events := by
  cases h with
  | prim => exact primEffect_events i s
  | load v => exact kexpLoad_events v s
  | word v =>
    rw [kexpWord_eq]
    split <;> rfl
  | round | lastRound => rfl

@[simp] theorem stepsLeft_complete (s : State) : stepsLeft (complete s) = 0 := stepsLeft_of_idle rfl

/-- Past the load step, KEY_EXPAND has a step left for each word from CTR on (R141). -/
theorem stepsLeft_of_word {n : Nat} (hf : s.fsm = .kexp) (hv : variantOf s.xKsize = some v) (hn : s.ctr.toNat = n)
    (hlo : v.nk ≤ n) : stepsLeft s = v.words - n := by
  have hne : s.ctr ≠ 0 := fun h0 => by
    have hzero : n = 0 := hn.symm.trans (congrArg BitVec.toNat h0)
    have := v.nk_ge
    omega
  rw [stepsLeft_of_kexp hf hv, if_neg hne, hn]

/-- A step of KEY_EXPAND uses up one engine step (R135, R136). -/
theorem stepsLeft_kexpStep (hf : s.fsm = .kexp) (h : kexpStep s = .next t) : stepsLeft t + 1 = stepsLeft s := by
  obtain ⟨v, hv, ⟨h0, rfl⟩ | ⟨-, hlo, hlt, rfl⟩⟩ := kexpStep_next h
  · have hnk : (kexpLoad v s).ctr.toNat = v.nk := by
      rw [kexpLoad_ctr, toNat_ofNat_of_lt_words v.nk_lt_words]
    rw [stepsLeft_of_kexp hf hv, if_pos h0, Nat.add_comm,
      stepsLeft_of_word (by rwa [kexpLoad_fsm]) (by rwa [kexpLoad_xKsize]) hnk le_rfl]
  · rw [stepsLeft_of_word hf hv rfl hlo, kexpWord_eq]
    split
    · rw [completeKeyExpand, stepsLeft_complete]
      omega
    · rw [stepsLeft_of_word (v := v) (n := s.ctr.toNat + 1)]
      · omega
      · exact hf
      · exact hv
      · exact toNat_ofNat_of_lt_words (v := v) (by omega)
      · omega

/-- A step of ENCRYPT or DECRYPT, a round or the last one, uses up one engine step (R183, R185). -/
theorem stepsLeft_cipherStep {b : Block} (hf : s.fsm = .enc ∨ s.fsm = .dec) (hv : variantOf s.schedKsize = some v)
    (h : (s.ctr.toNat < v.nr ∧ t = roundStep b s) ∨ (s.ctr.toNat = v.nr ∧ t = complete { s with block := b })) :
    stepsLeft t + 1 = stepsLeft s := by
  rw [stepsLeft_of_cipher hf hv]
  rcases h with ⟨hlt, rfl⟩ | ⟨heq, rfl⟩
  · have := v.nr_le
    have hctr : (s.ctr + 1).toNat = s.ctr.toNat + 1 := by bv_omega
    rw [stepsLeft_of_cipher (by rwa [roundStep_fsm]) (by rwa [roundStep_schedKsize]), roundStep_ctr, hctr]
    omega
  · rw [stepsLeft_complete]
    omega

/-- Every engine step uses up one of those left (R188). -/
theorem stepsLeft_engineStep (hr : Running (classOf i) s) (h : engineStepOf i s = .next t) :
    stepsLeft t + 1 = stepsLeft s := by
  cases i with
  | keyExpand => exact stepsLeft_kexpStep hr.fsm h
  | encrypt =>
    obtain ⟨v, b, hv, hc⟩ := encStep_next h
    exact stepsLeft_cipherStep (.inl hr.fsm) hv hc
  | decrypt =>
    obtain ⟨v, b, hv, hc⟩ := decStep_next h
    exact stepsLeft_cipherStep (.inr hr.fsm) hv hc
  | _ =>
    cases h
    rw [stepsLeft_complete, stepsLeft_of_prim hr.fsm]

/-! ## Runs with no input pending (R189) -/

/-- A run of k + 1 steps of any machine is a step and a run of k. -/
theorem core_run_succ (M : Host.Core) {s t : M.State} (h : M.step s = .next t) (k : Nat) :
    M.run (k + 1) s = M.run k t := by
  simp only [Host.Core.run, h]

theorem runSteps_succ (h : step s = .next t) (k : Nat) : runSteps (k + 1) s = runSteps k t :=
  core_run_succ Sys2Proof.core h k

/-- With no input pending, a step uses up one of the engine steps left; an idle engine has none. -/
theorem exists_step_of_no_event (h : Inv s) (he : s.events = []) :
    ∃ t, step s = .next t ∧ t.events = [] ∧ stepsLeft t = stepsLeft s - 1 := by
  rw [step_of_no_event he]
  cases hb : s.busy with
  | false =>
    refine ⟨s, engineTurn_of_idle hb, he, ?_⟩
    rw [stepsLeft_of_idle (h.fsm_of_not_busy hb)]
  | true =>
    obtain ⟨i, hl, hc⟩ := h.latched hb
    have hr : Running (classOf i) s := ⟨hb, hc.symm⟩
    obtain ⟨t, ht⟩ := exists_engineStep h hr
    refine ⟨t, ?_, (engineCase_of_step ht).events.trans he, ?_⟩
    · rw [engineTurn_of_latched hb hl, exec_of_running hr, ht]
    · rw [← stepsLeft_engineStep hr ht, Nat.add_sub_cancel]

/-- With no input pending, k steps use up k of the engine steps left, and the machine goes on. -/
theorem exists_runSteps_of_no_event (h : Inv s) (he : s.events = []) (k : Nat) :
    ∃ u, runSteps k s = .next u ∧ Inv u ∧ u.events = [] ∧ stepsLeft u = stepsLeft s - k := by
  induction k generalizing s with
  | zero => exact ⟨s, rfl, h, he, rfl⟩
  | succ k ih =>
    obtain ⟨t, hst, het, hlt⟩ := exists_step_of_no_event h he
    obtain ⟨u, hrun, hu, heu, hlu⟩ := ih (stepKeepsTheInvariant s t h hst) het
    refine ⟨u, (runSteps_succ hst k).trans hrun, hu, heu, ?_⟩
    omega

/-- With no input pending, the engine is busy for exactly the engine steps left (R189). -/
theorem busy_after_iff (h : Inv s) (he : s.events = []) (k : Nat) :
    (∃ u, runSteps k s = .next u ∧ u.busy = true) ↔ k < stepsLeft s := by
  obtain ⟨u, hrun, hu, -, hlu⟩ := exists_runSteps_of_no_event h he k
  have hbusy : u.busy = true ↔ k < stepsLeft s := by
    rw [← stepsLeft_pos_iff hu, hlu, Nat.sub_pos_iff_lt]
  simp [hrun, hbusy]

/-- Settles O60: the steps a command takes are counted by what the two states agree on. -/
theorem stepCountDoesNotDependOnData : Obligations.StepCountDoesNotDependOnData := by
  intro s t hs ht _ hes het hf hc hk hx k
  rw [busy_after_iff hs hes, busy_after_iff ht het, stepsLeft_congr hf hc hk hx]

end Sys2Proof.Machine

namespace Sys2Proof.Machine

variable {s t : State} {i : Instr} {v : Variant} {w : Vector Word 60} {k : Vector Word 8}

/-! ## The word functions (R130, R131) -/

/-- RotWord is the library's rotation by one byte (R130). -/
theorem rotWord_eq_rotateLeft (w : Word) : rotWord w = w.rotateLeft 8 := rfl

/-- Bit i of a rotated word is bit i - 8, the highest byte's bits coming in at the end (R130). -/
theorem rotWord_wordOf (a b c d : Byte) : rotWord (wordOf a b c d) = wordOf b c d a := by
  ext i hi
  rw [rotWord_eq_rotateLeft, BitVec.getElem_rotateLeft]
  simp only [wordOf]
  grind

theorem subWord_wordOf (a b c d : Byte) :
    subWord (wordOf a b c d) = wordOf (sbox a) (sbox b) (sbox c) (sbox d) := by
  simp only [subWord, byteOf_wordOf_zero, byteOf_wordOf_one, byteOf_wordOf_two, byteOf_wordOf_three]

/-- Settles O22. -/
theorem wordFunctionsOnBytes : Obligations.WordFunctionsOnBytes :=
  fun a b c d => ⟨rotWord_wordOf a b c d, subWord_wordOf a b c d⟩

/-! ## Acceptance of KEY_EXPAND (R134) -/

/-- Exactly the Nk key words are written, by the key size (R134). -/
theorem exists_keyMask_iff {ks : BitVec 2} {m : BitVec 8} :
    (∃ v, variantOf ks = some v ∧ m = v.keyMask) ↔
      (ks = 0 ∧ m = 0x0F) ∨ (ks = 1 ∧ m = 0x3F) ∨ (ks = 2 ∧ m = 0xFF) := by
  constructor
  · rintro ⟨v, hv, rfl⟩
    rw [bits_of_variantOf hv]
    cases v <;> decide
  · rintro (⟨rfl, rfl⟩ | ⟨rfl, rfl⟩ | ⟨rfl, rfl⟩)
    · exact ⟨.aes128, rfl, rfl⟩
    · exact ⟨.aes192, rfl, rfl⟩
    · exact ⟨.aes256, rfl, rfl⟩

/-- Exactly the Nk key words written, KEY_EXPAND is accepted (R134). -/
theorem checkKey_of_keyMask (hv : variantOf s.ksize = some v) (hm : s.keyWr = v.keyMask) : checkKey s = .pass := by
  rw [checkKey_of_variant hv, if_neg (not_not.mpr hm)]

/-- Settles O9, by the key size. -/
theorem keyExpandIsCheckedThenAccepted : Obligations.KeyExpandIsCheckedThenAccepted := by
  intro s h written
  refine ⟨fun h3 => ?_, fun h3 hne => ?_, fun he => ?_⟩
  · exact exec_of_idle_refuse h (checkKey_of_unsupported h3)
  · obtain ⟨v, hv⟩ := exists_variantOf h3
    have hm : s.keyWr ≠ v.keyMask := fun hm => hne (exists_keyMask_iff.mp ⟨v, hv, hm⟩)
    exact exec_of_idle_refuse h ((checkKey_of_variant hv).trans (if_pos hm))
  · obtain ⟨v, hv, hm⟩ := exists_keyMask_iff.mpr he
    exact exec_of_pass h (checkKey_of_keyMask hv hm)

/-! ## The engine steps of KEY_EXPAND (R135 to R137) -/

theorem kexpStep_of_load (hv : variantOf s.xKsize = some v) (h0 : s.ctr = 0) :
    kexpStep s = .next (kexpLoad v s) := by
  simp only [kexpStep, hv, if_pos h0]

/-- Past the load step CTR is no 0: it counts from Nk on (R135). -/
theorem kexpStep_of_word (hv : variantOf s.xKsize = some v) (hlo : v.nk ≤ s.ctr.toNat)
    (hhi : s.ctr.toNat < v.words) : kexpStep s = .next (kexpWord v s.ctr.toNat s) := by
  have h0 : s.ctr ≠ 0 := fun h0 => by
    have := v.nk_ge
    rw [h0, BitVec.ofNat_eq_ofNat, BitVec.toNat_zero] at hlo
    omega
  simp only [kexpStep, hv, if_neg h0, if_pos (And.intro hlo hhi)]

theorem keyWord_of_lt (k : Vector Word 8) {i : Nat} (h : i < 8) : keyWord k i = k[i] := by
  simp only [keyWord, h, dite_true]

/-- Settles O28, by the ranges of the index. -/
theorem keyExpandLoadStep : Obligations.KeyExpandLoadStep := by
  intro s v hr h0 hv
  refine ⟨loadedSchedule v s.key s.sched, (exec_of_running (i := .keyExpand) hr).trans (kexpStep_of_load hv h0),
    fun i k hki hi => ?_, zeroBeyond_loadedSchedule v s.key s.sched, fun i hlo hhi => ?_⟩
  · rw [Fin.getElem_fin, loadedSchedule_getElem, if_pos hi, keyWord_of_lt _ (by omega), Fin.getElem_fin]
    simp only [hki]
  · have hhi : i.val < v.words := hhi
    rw [Fin.getElem_fin, loadedSchedule_getElem, if_neg (by omega), if_neg (by omega), Fin.getElem_fin]

/-- Settles O29: the word step writes the word of R133 at CTR. -/
theorem keyExpandWordStep : Obligations.KeyExpandWordStep := by
  rintro s v _ hr hv rfl hlo hhi
  have hhi : s.ctr.toNat ≤ v.words - 1 := hhi
  have hnk := v.nk_lt_words
  have hwords := v.words_le
  have hstep : exec .keyExpand s = .next (kexpWord v s.ctr.toNat s) :=
    (exec_of_running (i := .keyExpand) hr).trans (kexpStep_of_word hv hlo (by omega))
  rw [kexpWord_eq] at hstep
  refine ⟨_, hstep, ?_, fun j hj => ?_⟩
  · exact (schedWord_set_self s.sched (by omega) _).trans (BitVec.xor_comm _ _)
  · exact Vector.getElem_setIfInBounds_ne _ (Ne.symm hj)

/-! ## A whole KEY_EXPAND (R133, R141) -/

/-- W holds the expansion of the key k below index n, and 0 beyond the schedule: where KEY_EXPAND with CTR = n stands
(R135, R136). -/
structure ExpandsKey (k : Vector Word 8) (v : Variant) (n : Nat) (w : Vector Word 60) : Prop where
  key : ∀ j, j < v.nk → schedWord w j = keyWord k j
  expanded : Expanded v n w
  zero : ZeroBeyond v w

/-- The load step puts the key in place (R135). -/
theorem expandsKey_loadedSchedule (k : Vector Word 8) (v : Variant) (w : Vector Word 60) :
    ExpandsKey k v v.nk (loadedSchedule v k w) where
  key := fun j hj => by
    have := v.nk_le
    rw [schedWord_of_lt _ (by omega), loadedSchedule_getElem, if_pos hj]
  expanded := fun j hlo hhi => absurd hhi (Nat.not_lt.mpr hlo)
  zero := zeroBeyond_loadedSchedule v k w

/-- A word step puts the next word in place (R136). -/
theorem ExpandsKey.set {n : Nat} (h : ExpandsKey k v n w) (hlo : v.nk ≤ n) (hhi : n < v.words) :
    ExpandsKey k v (n + 1)
      (w.setIfInBounds n (nextWord v n (schedWord w (n - 1)) (schedWord w (n - v.nk)))) where
  key := fun j hj => (schedWord_set_ne w (by omega) _).trans (h.key j hj)
  expanded := h.expanded.set hlo hhi
  zero := h.zero.set hhi _

/-- The schedule KEY_EXPAND builds is the expansion of R133. -/
theorem ExpandsKey.expandWords_eq {n : Nat} (h : ExpandsKey k v n w) {m : Nat} (hm : m ≤ n) :
    expandWords k v m = (List.range m).map (schedWord w) := by
  have hnk := v.nk_ge
  induction m with
  | zero => rfl
  | succ m ih =>
    rw [expandWords, ih (by omega), List.range_succ, List.map_append, List.map_singleton]
    congr 2
    split
    · exact (h.key m (by assumption)).symm
    · rw [h.expanded m (by omega) (by omega)]
      simp [show m - 1 < m by omega, show m - v.nk < m by omega]

/-- KEY_EXPAND is in progress at CTR = n, with no input pending. -/
structure ExpandingAt (v : Variant) (n : Nat) (s : State) : Prop where
  running : Running .kexp s
  latched : latchedCommand s = some .keyExpand
  no_event : s.events = []
  size : variantOf s.xKsize = some v
  ctr : s.ctr = BitVec.ofNat 6 n

/-- With no input pending the step is the engine step of KEY_EXPAND (R189). -/
theorem ExpandingAt.step_eq {n : Nat} (h : ExpandingAt v n s) : step s = kexpStep s := by
  rw [step_of_no_event h.no_event, engineTurn_of_latched h.running.busy h.latched]
  exact exec_of_running (i := .keyExpand) h.running

theorem ExpandingAt.step_load (h : ExpandingAt v 0 s) : step s = .next (kexpLoad v s) :=
  h.step_eq.trans (kexpStep_of_load h.size h.ctr)

theorem ExpandingAt.step_word {n : Nat} (h : ExpandingAt v n s) (hlo : v.nk ≤ n) (hhi : n < v.words) :
    step s = .next (kexpWord v n s) := by
  obtain rfl : s.ctr.toNat = n := h.ctr ▸ toNat_ofNat_of_lt_words hhi
  exact h.step_eq.trans (kexpStep_of_word h.size hlo hhi)

/-- The engine steps of KEY_EXPAND that do not complete it write W and CTR only. -/
theorem ExpandingAt.progressed {n : Nat} (h : ExpandingAt v n s) (m : Nat) (w : Vector Word 60) :
    ExpandingAt v m { s with sched := w, ctr := BitVec.ofNat 6 m } :=
  ⟨⟨h.running.busy, h.running.fsm⟩, h.latched, h.no_event, h.size, rfl⟩

/-- From CTR = n on, a word step for each word left completes the expansion (R136, R137). -/
theorem ExpandingAt.run_words {n : Nat} (h : ExpandingAt v n s) (hk : ExpandsKey k v n s.sched) (hlo : v.nk ≤ n)
    (r : Nat) (hr : n + r + 1 = v.words) :
    ∃ w, runSteps (r + 1) s =
        .next (completeKeyExpand { s with sched := w, ctr := BitVec.ofNat 6 (v.words - 1) }) ∧
      ExpandsKey k v v.words w := by
  induction r generalizing n s with
  | zero =>
    have hlast : n = v.words - 1 := by omega
    have hstep := h.step_word hlo (by omega)
    rw [kexpWord_eq, if_pos hlast] at hstep
    refine ⟨_, (runSteps_succ hstep 0).trans ?_, hr ▸ hk.set hlo (by omega)⟩
    rw [← hlast, ← h.ctr]
    rfl
  | succ r ih =>
    have hstep := h.step_word hlo (by omega)
    rw [kexpWord_eq, if_neg (by omega)] at hstep
    rw [runSteps_succ hstep]
    exact ih (h.progressed (n + 1) _) (hk.set hlo (by omega)) (by omega) (by omega)

/-- The engine steps of a whole KEY_EXPAND: the load step, and a word step for each word past the key (R141). -/
theorem ExpandingAt.run (h : ExpandingAt v 0 s) :
    ∃ w, runSteps (1 + (v.words - v.nk)) s =
        .next (completeKeyExpand { s with sched := w, ctr := BitVec.ofNat 6 (v.words - 1) }) ∧
      ExpandsKey s.key v v.words w := by
  have hnk := v.nk_lt_words
  have hsteps : 1 + (v.words - v.nk) = v.words - v.nk - 1 + 1 + 1 := by omega
  rw [hsteps, runSteps_succ h.step_load]
  exact (h.progressed v.nk _).run_words (expandsKey_loadedSchedule s.key v s.sched) le_rfl _ (by omega)

theorem decode_keyExpand : decode 0x00000001 = .ok .keyExpand := decode_encode (i := .keyExpand) rfl

/-- The step of a CMD write of KEY_EXPAND with exactly the Nk key words written is its acceptance (R134). -/
theorem step_acceptKeyExpand {rest : List Event} (h : Idle s) (hv : variantOf s.ksize = some v)
    (hm : s.keyWr = v.keyMask) (hevents : s.events = .write 0x008 4 0x00000001 :: rest) :
    step s = .next (acceptKeyExpand (answered .okay rest s)) := by
  have hi := h.answered .okay rest
  rw [step_write .cmd hevents]
  exact (writeCmd_of_decoded hi decode_keyExpand).trans (exec_of_pass (i := .keyExpand) hi (checkKey_of_keyMask hv hm))

/-- The acceptance of KEY_EXPAND starts it at CTR = 0 (R134). -/
theorem expandingAt_acceptKeyExpand (hv : variantOf s.ksize = some v) (he : s.events = []) :
    ExpandingAt v 0 (acceptKeyExpand s) where
  running := ⟨rfl, rfl⟩
  latched := latchedCommand_acceptedBy decode_keyExpand s
  no_event := he
  size := hv
  ctr := rfl

/-- Settles O34: the accepting step, the load step and the word steps leave the expansion in W. -/
theorem keyExpandRunGivesExpandKey : Obligations.KeyExpandRunGivesExpandKey := by
  intro s v h hv hm hevents
  obtain ⟨w, hrun, hw⟩ := (expandingAt_acceptKeyExpand (s := answered .okay [] s) hv rfl).run
  have hexpand : expandKey s.key v = (List.range v.words).map (schedWord w) := hw.expandWords_eq le_rfl
  have hnk := v.nk_lt_words
  have hsteps : 1 + (1 + 4 * (v.nr + 1) - v.nk) = 1 + (v.words - v.nk) + 1 := by
    rw [Variant.words] at hnk ⊢
    omega
  refine ⟨w, ?_, fun i hi => ?_, ?_, hw.zero⟩
  · rw [hsteps, runSteps_succ (step_acceptKeyExpand h hv hm hevents), hrun]
    simp only [answered, h.busy]
    rfl
  · have hi : i.val < v.words := hi
    rw [hexpand, List.getElem?_map, List.getElem?_range hi, Option.map_some, schedWord_of_lt w i.isLt, Fin.getElem_fin]
  · rw [hexpand, List.length_map, List.length_range, Variant.words]

/-! ## What changes the schedule (R140) -/

/-- Of the engine steps only those of KEY_EXPAND and ZEROIZE touch W and SCHED_VALID (R140). -/
theorem EngineCase.schedule (h : EngineCase i s t) :
    (t.sched = s.sched ∧ t.schedValid = s.schedValid) ∨ i = .keyExpand ∨ i = .zeroize := by
  cases h with
  | prim =>
    cases i with
    | zeroize => exact .inr (.inr rfl)
    | _ => exact .inl ⟨rfl, rfl⟩
  | load _ cls | word _ cls => exact .inr (.inl (classOf_eq_kexp_iff.mp cls))
  | round | lastRound => exact .inl ⟨rfl, rfl⟩

/-- What a step does to W and SCHED_VALID: keeps them, or changes them by one of its causes (R140). -/
theorem StepCase.schedule (h : StepCase s t) :
    (t.sched = s.sched ∧ t.schedValid = s.schedValid) ∨
      (EngineNext s ∧ s.busy = true ∧ (latchedCommand s = some .keyExpand ∨ latchedCommand s = some .zeroize)) ∨
      (∃ rest, s.events = .write 0x008 4 0x00000001 :: rest ∧ t.fsm = .kexp) ∨ ResetNext s := by
  cases h with
  | answer | idleTurn | writeCtrl | writeData | refusePending => exact .inl ⟨rfl, rfl⟩
  | engineStep i turn latched running next =>
    rw [latched]
    rcases (engineCase_of_step next).schedule with hkeep | rfl | rfl
    · exact .inl hkeep
    · exact .inr (.inl ⟨turn, running.busy, .inl rfl⟩)
    · exact .inr (.inl ⟨turn, running.busy, .inr rfl⟩)
  | reset _ _ input => exact .inr (.inr (.inr input))
  | writeStatus v =>
    rw [writeStatus_eq]
    exact .inl ⟨rfl, rfl⟩
  | raise code => exact .inl ⟨raiseError_sched code _, raiseError_schedValid code _⟩
  | @accept rest c i input _ decoded =>
    by_cases hi : i = .keyExpand
    · subst hi
      obtain rfl : c = 0x00000001 := (encode_of_decode decoded).symm
      exact .inr (.inr (.inl ⟨rest, input, rfl⟩))
    · exact .inl ⟨acceptedBy_sched i _, by simp [hi, answered]⟩

/-- Settles O58, by what a step does to W and SCHED_VALID. -/
theorem scheduleChangesOnlyByItsCommands : Obligations.ScheduleChangesOnlyByItsCommands := by
  intro s t hst hchange
  refine (stepCase_of_step hst).schedule.resolve_left fun hkeep => ?_
  exact hchange.elim (absurd hkeep.1) (absurd hkeep.2)

/-! ## Completion (R141, R186, R189) -/

theorem Variant.words_sub_nk_le (v : Variant) : v.words - v.nk ≤ 52 := by cases v <;> decide

/-- The most engine steps are those of KEY_EXPAND for AES-256 (R141, R186). -/
theorem stepsLeft_le (h : Inv s) : stepsLeft s ≤ 53 := by
  have cipher (hf : s.fsm = .enc ∨ s.fsm = .dec) : stepsLeft s ≤ 53 := by
    obtain ⟨-, v, hv, -⟩ := (progressOk_cipher hf).mp h.progress
    have := v.nr_le
    rw [stepsLeft_of_cipher hf hv]
    omega
  cases hf : s.fsm with
  | idle => simp [stepsLeft_of_idle hf]
  | prim => simp [stepsLeft_of_prim hf]
  | kexp =>
    obtain ⟨-, v, hv, hc⟩ := (progressOk_kexp hf).mp h.progress
    have := v.words_sub_nk_le
    rw [stepsLeft_of_kexp hf hv]
    split
    · omega
    · have := hc.resolve_left (by assumption)
      omega
  | enc => exact cipher (.inl hf)
  | dec => exact cipher (.inr hf)

/-- The engine step that ends a command sets DONE (R165). -/
theorem EngineCase.done_of_not_busy (h : EngineCase i s t) (hs : s.busy = true) (ht : t.busy = false) :
    t.done = true := by
  cases h with
  | prim | lastRound => rfl
  | load v => exact absurd (hs.symm.trans ((kexpLoad_busy v s).symm.trans ht)) nofun
  | word v =>
    rw [kexpWord_eq] at ht ⊢
    split at ht
    · rw [if_pos (by assumption)]
      rfl
    · exact absurd (hs.symm.trans ht) nofun
  | round => exact absurd (hs.symm.trans ht) nofun

/-- With no input pending, the step that ends a command sets DONE (R165, R189). -/
theorem done_of_step_to_idle (h : Inv s) (he : s.events = []) (hs : s.busy = true) (hst : step s = .next t)
    (ht : t.busy = false) : t.done = true := by
  obtain ⟨i, hl, hc⟩ := h.latched hs
  rw [step_of_no_event he, engineTurn_of_latched hs hl, exec_of_running ⟨hs, hc.symm⟩] at hst
  exact (engineCase_of_step hst).done_of_not_busy hs ht

/-- With no input pending, a command in progress has set DONE when its last engine step is made (R165, R189). -/
theorem exists_runSteps_completed (h : Inv s) (he : s.events = []) (hs : s.busy = true) :
    ∃ t, runSteps (stepsLeft s) s = .next t ∧ t.busy = false ∧ t.done = true ∧ t.fsm = .idle := by
  induction hn : stepsLeft s generalizing s with
  | zero => exact absurd ((stepsLeft_pos_iff h).mpr hs) (by omega)
  | succ n ih =>
    obtain ⟨t, hst, het, hlt⟩ := exists_step_of_no_event h he
    have hinv : Inv t := stepKeepsTheInvariant s t h hst
    rw [runSteps_succ hst]
    cases hb : t.busy with
    | true => exact ih hinv het hb (by omega)
    | false =>
      have hzero : stepsLeft t = 0 := stepsLeft_of_idle (hinv.fsm_of_not_busy hb)
      obtain rfl : n = 0 := by omega
      exact ⟨t, rfl, hb, done_of_step_to_idle h he hs hst hb, hinv.fsm_of_not_busy hb⟩

/-- Settles O41: each step uses up one of the engine steps left, and the last one completes the command. -/
theorem everyCommandCompletes : Obligations.EveryCommandCompletes := by
  intro s h hs he
  exact ⟨(stepsLeft_pos_iff h).mpr hs, stepsLeft_le h, fun k => (busy_after_iff h he k).mpr,
    exists_runSteps_completed h he hs⟩

end Sys2Proof.Machine

namespace Sys2Proof.Machine

variable {s : State} {i : Instr} {v : Variant}

/-! ## The state transforms byte by byte (R150 to R156) -/

section bytes

variable (b : Block) (r c : Fin 4)

@[simp] theorem get_subBytesF : (subBytesF b).get r c = sbox (b.get r c) := Block.get_ofFn _ r c

@[simp] theorem get_invSubBytesF : (invSubBytesF b).get r c = invSbox (b.get r c) := Block.get_ofFn _ r c

@[simp] theorem get_shiftRowsF : (shiftRowsF b).get r c = b.get r (c + r) := Block.get_ofFn _ r c

@[simp] theorem get_invShiftRowsF : (invShiftRowsF b).get r c = b.get r (c - r) := Block.get_ofFn _ r c

@[simp] theorem get_addRoundKeyF (w : Vector Word 60) (rnd : Nat) :
    (addRoundKeyF w rnd b).get r c = b.get r c ^^^ byteOf (schedWord w (4 * rnd + c.val)) r := Block.get_ofFn _ r c

theorem get_mapColumns (f : Column → Column) : (b.mapColumns f).get r c = (f (b.column c)).get r := by
  rw [Block.get, Block.column_mapColumns]

end bytes

/-- The rows of a circulant matrix with first row `m0 m1 m2 m3`, on each column of a block (R154, R155). -/
theorem get_mapColumns_mulColumn (m0 m1 m2 m3 : Byte) (b : Block) (c : Fin 4) :
    let a := fun r => b.get r c
    let p := b.mapColumns (mulColumn m0 m1 m2 m3)
    p.get 0 c = gmul m0 (a 0) ^^^ gmul m1 (a 1) ^^^ gmul m2 (a 2) ^^^ gmul m3 (a 3) ∧
      p.get 1 c = gmul m3 (a 0) ^^^ gmul m0 (a 1) ^^^ gmul m1 (a 2) ^^^ gmul m2 (a 3) ∧
      p.get 2 c = gmul m2 (a 0) ^^^ gmul m3 (a 1) ^^^ gmul m0 (a 2) ^^^ gmul m1 (a 3) ∧
      p.get 3 c = gmul m1 (a 0) ^^^ gmul m2 (a 1) ^^^ gmul m3 (a 2) ^^^ gmul m0 (a 3) :=
  ⟨get_mapColumns b 0 c _, get_mapColumns b 1 c _, get_mapColumns b 2 c _, get_mapColumns b 3 c _⟩

/-! ## The inverse laws (R166) -/

theorem invSbox_sbox (x : Byte) : invSbox (sbox x) = x := (tablesAreInverse x).1

theorem sbox_invSbox (x : Byte) : sbox (invSbox x) = x := (tablesAreInverse x).2

theorem invSubBytesF_subBytesF (b : Block) : invSubBytesF (subBytesF b) = b :=
  Block.ext_get fun r c => by rw [get_invSubBytesF, get_subBytesF, invSbox_sbox]

theorem subBytesF_invSubBytesF (b : Block) : subBytesF (invSubBytesF b) = b :=
  Block.ext_get fun r c => by rw [get_subBytesF, get_invSubBytesF, sbox_invSbox]

theorem invShiftRowsF_shiftRowsF (b : Block) : invShiftRowsF (shiftRowsF b) = b :=
  Block.ext_get fun r c => by rw [get_invShiftRowsF, get_shiftRowsF, sub_add_cancel]

/-- XOR with the same byte twice gives the byte back. -/
theorem addRoundKeyF_addRoundKeyF (w : Vector Word 60) (rnd : Nat) (b : Block) :
    addRoundKeyF w rnd (addRoundKeyF w rnd b) = b :=
  Block.ext_get fun r c => by
    rw [get_addRoundKeyF, get_addRoundKeyF, BitVec.xor_assoc, BitVec.xor_self, BitVec.xor_zero]

theorem subBytesF_shiftRowsF (b : Block) : subBytesF (shiftRowsF b) = shiftRowsF (subBytesF b) :=
  Block.ext_get fun r c => by simp only [get_subBytesF, get_shiftRowsF]

theorem invSubBytesF_invShiftRowsF (b : Block) : invSubBytesF (invShiftRowsF b) = invShiftRowsF (invSubBytesF b) :=
  Block.ext_get fun r c => by simp only [get_invSubBytesF, get_invShiftRowsF]

theorem gmul_zero_left (x : Byte) : gmul 0x00 x = 0#8 := by
  have h := gmul_xor_left 0x00 0x00 x
  rwa [BitVec.xor_self, BitVec.xor_self] at h

/-- A circulant matrix after another is the circulant matrix whose first row is that of the product. -/
theorem mulColumn_mulColumn (n0 n1 n2 n3 m0 m1 m2 m3 : Byte) (a : Column) :
    mulColumn n0 n1 n2 n3 (mulColumn m0 m1 m2 m3 a) =
      mulColumn (gmul n0 m0 ^^^ gmul n1 m3 ^^^ gmul n2 m2 ^^^ gmul n3 m1)
        (gmul n0 m1 ^^^ gmul n1 m0 ^^^ gmul n2 m3 ^^^ gmul n3 m2)
        (gmul n0 m2 ^^^ gmul n1 m1 ^^^ gmul n2 m0 ^^^ gmul n3 m3)
        (gmul n0 m3 ^^^ gmul n1 m2 ^^^ gmul n2 m1 ^^^ gmul n3 m0) a := by
  simp only [mulColumn, gmul_xor_left, gmul_xor_right, gmul_assoc, Column.mk.injEq]
  refine ⟨?_, ?_, ?_, ?_⟩ <;> ac_rfl

/-- The identity matrix. -/
theorem mulColumn_one (a : Column) : mulColumn 0x01 0x00 0x00 0x00 a = a := by
  simp only [mulColumn, gmul_one_left, gmul_zero_left, BitVec.xor_zero, BitVec.zero_xor]

/-- IM times M is the identity, because its first row is 01 00 00 00. -/
theorem mulColumn_inv_mulColumn (a : Column) :
    mulColumn 0x0E 0x0B 0x0D 0x09 (mulColumn 0x02 0x03 0x01 0x01 a) = a := by
  rw [mulColumn_mulColumn]
  exact mulColumn_one a

theorem invMixColumnsF_mixColumnsF (b : Block) : invMixColumnsF (mixColumnsF b) = b :=
  Block.ext_column fun c => by
    rw [invMixColumnsF, mixColumnsF, Block.column_mapColumns, Block.column_mapColumns, mulColumn_inv_mulColumn]

/-- Settles O27, law by law. -/
theorem transformInverseLaws : Obligations.TransformInverseLaws := fun b =>
  ⟨invSubBytesF_subBytesF b, subBytesF_invSubBytesF b, invShiftRowsF_shiftRowsF b, invMixColumnsF_mixColumnsF b,
    fun w rnd => addRoundKeyF_addRoundKeyF w rnd b, subBytesF_shiftRowsF b, invSubBytesF_invShiftRowsF b⟩

/-! ## The engine steps of the transforms (R158 to R164) -/

/-- Settles O18: the rows of the circulant matrix M, whose entries 01 leave the byte as it is. -/
theorem mixColumnsStep : Obligations.MixColumnsStep := by
  intro s h
  refine ⟨mixColumnsF s.block, exec_of_prim rfl h, fun c => ?_⟩
  have hrows := get_mapColumns_mulColumn 0x02 0x03 0x01 0x01 s.block c
  simp only [gmul_one_left] at hrows
  exact hrows

/-- Settles O19: the rows of the circulant matrix IM. -/
theorem invMixColumnsStep : Obligations.InvMixColumnsStep := fun s h =>
  ⟨invMixColumnsF s.block, exec_of_prim rfl h, get_mapColumns_mulColumn 0x0E 0x0B 0x0D 0x09 s.block⟩

/-- Settles O16, byte by byte. -/
theorem subBytesSteps : Obligations.SubBytesSteps := fun s h =>
  ⟨⟨subBytesF s.block, exec_of_prim rfl h, get_subBytesF s.block⟩,
    ⟨invSubBytesF s.block, exec_of_prim rfl h, get_invSubBytesF s.block⟩⟩

/-- Settles O17: the column index is added or subtracted modulo 4. -/
theorem shiftRowsSteps : Obligations.ShiftRowsSteps := by
  intro s h
  refine ⟨⟨shiftRowsF s.block, exec_of_prim rfl h, fun r c c' hc => ?_⟩,
    ⟨invShiftRowsF s.block, exec_of_prim rfl h, fun r c c' hc => ?_⟩⟩
  · have hadd : c' = c + r := Fin.ext (hc.trans (Fin.val_add c r).symm)
    rw [get_shiftRowsF, hadd]
  · have hsub : c' = c - r := by
      apply Fin.ext
      rw [hc, Fin.val_sub]
      congr 1
      omega
    rw [get_invShiftRowsF, hsub]

/-- Settles O20: the four words of the round key are words of the schedule RAM. -/
theorem addRoundKeyStep : Obligations.AddRoundKeyStep := by
  intro s rnd h _
  refine ⟨addRoundKeyF s.sched rnd s.block, exec_of_prim rfl h, fun r c i hi => ?_⟩
  rw [get_addRoundKeyF, ← hi, schedWord_of_lt _ i.isLt]
  rfl

/-- Settles O15: the engine step of a single-operation command is its effect and the completion. -/
theorem controlCommandSteps : Obligations.ControlCommandSteps := fun _ h =>
  ⟨exec_of_prim rfl h, exec_of_prim rfl h, exec_of_prim rfl h⟩

/-! ## Acceptance of the single-operation commands (R164, R165, R233) -/

/-- Settles O8: each of the commands has no check. -/
theorem plainCommandsAreAccepted : Obligations.PlainCommandsAreAccepted := by
  intro p hp s h
  fin_cases hp <;> exact exec_of_pass h rfl

/-- A check that stops in a state the spec rules out stops the CMD write (log 8). -/
theorem exec_of_stuck {reason : Fault} (h : Idle s) (hc : checkOf i s = .stuck reason) :
    exec i s = .fault reason := by
  rw [exec_eq_command, command_of_not_busy h.busy]
  simp only [issue, h.err, hc, Bool.false_eq_true, if_false]

/-- `nr(3)` is never evaluated (R22, log 8). -/
theorem checkRound_of_size_three (h : s.schedValid = true) (h3 : s.schedKsize = 3) (rnd : Nat) :
    checkRound rnd s = .stuck .scheduleSizeThree := by
  simp only [checkRound, h, (variantOf_eq_none_iff s.schedKsize).mpr h3, if_true]

/-- The round count by the key-size field (R22). -/
theorem nr_of_variantOf {ks : BitVec 2} (h : variantOf ks = some v) :
    v.nr = if ks = 0 then 10 else if ks = 1 then 12 else 14 := by
  rw [bits_of_variantOf h]
  cases v <;> rfl

/-- With a schedule of a supported size, ADD_ROUND_KEY's check is the bound Nr (R164). -/
theorem checkRound_of_size_ne_three (hv : s.schedValid = true) (h3 : s.schedKsize ≠ 3) (rnd : Nat) :
    checkRound rnd s =
      if (if s.schedKsize = 0 then 10 else if s.schedKsize = 1 then 12 else 14) < rnd then .refuse .roundRange
      else .pass := by
  obtain ⟨v, hsize⟩ := exists_variantOf h3
  rw [checkRound_of_valid hv hsize, nr_of_variantOf hsize]

/-- Settles O11, by what the check of the round index answers. -/
theorem addRoundKeyIsCheckedThenAccepted : Obligations.AddRoundKeyIsCheckedThenAccepted := by
  intro s rnd h _
  refine ⟨fun hv => exec_of_idle_refuse h (checkRound_of_invalid hv rnd),
    fun hv => ⟨fun h3 hout => ?_, fun h3 hin => ?_, fun h3 => ?_⟩⟩
  · exact exec_of_idle_refuse h ((checkRound_of_size_ne_three hv h3 rnd).trans (if_pos hout))
  · exact exec_of_pass h ((checkRound_of_size_ne_three hv h3 rnd).trans (if_neg (Nat.not_lt.mpr hin)))
  · exact exec_of_stuck h (checkRound_of_size_three hv h3 rnd)

end Sys2Proof.Machine

namespace Sys2Proof.Machine

variable {s t : State} {i : Instr} {v : Variant} {rest : List Event}

/-! ## Acceptance of ENCRYPT and DECRYPT (R182, R184) -/

/-- Settles O10: the check of both commands is SCHED_VALID. -/
theorem cipherCommandsNeedASchedule : Obligations.CipherCommandsNeedASchedule := by
  intro p hp s h
  fin_cases hp <;>
    exact ⟨fun hv => exec_of_idle_refuse h (checkSchedule_of_invalid hv),
      fun hv => exec_of_pass h (checkSchedule_of_valid hv)⟩

@[simp] theorem checkOf_answered (i : Instr) (r : Response) (rest : List Event) (s : State) :
    checkOf i (answered r rest s) = checkOf i s := by cases i <;> rfl

/-- A CMD write of a command whose check passes is its acceptance (R233). -/
theorem step_of_pass {c : Word} (h : Idle s) (hevents : s.events = .write 0x008 4 c :: rest) (hd : decode c = .ok i)
    (hp : checkOf i s = .pass) : step s = .next (acceptedBy i (answered .okay rest s)) := by
  rw [stepRunsTheDecodedCommand.1 s c i rest h hevents hd]
  exact exec_of_pass (h.answered .okay rest) ((checkOf_answered i _ _ s).trans hp)

/-! ## The engine steps of ENCRYPT and DECRYPT (R183, R185) -/

/-- The two commands that run the block cipher. -/
def IsCipher (i : Instr) : Prop := i = .encrypt ∨ i = .decrypt

theorem IsCipher.classOf (h : IsCipher i) : classOf i = .enc ∨ classOf i = .dec := by
  rcases h with rfl | rfl
  · exact .inl rfl
  · exact .inr rfl

/-- The S that the engine step with CTR = k of ENCRYPT or DECRYPT leaves (R183, R185); the identity for the other
commands. -/
def roundBlock (i : Instr) (w : Vector Word 60) (v : Variant) (k : Nat) (b : Block) : Block :=
  match i with
  | .encrypt => if k = 0 then addRoundKeyF w 0 b else if k < v.nr then encRound w k b else encFinal w v.nr b
  | .decrypt => if k = 0 then addRoundKeyF w v.nr b else if k < v.nr then decRound w (v.nr - k) b else decFinal w b
  | _ => b

/-- `CTR <- CTR + 1` by the number CTR holds (R44). -/
theorem add_one_eq_ofNat (x : BitVec 6) : x + 1 = BitVec.ofNat 6 (x.toNat + 1) := by
  apply BitVec.eq_of_toNat_eq
  simp

theorem Variant.nr_pos (v : Variant) : 0 < v.nr := Nat.lt_of_lt_of_le (by decide : 0 < 6) (Nat.le_add_left _ _)

/-- Below Nr an engine step writes S and counts on (R183, R185). -/
theorem engineStepOf_cipher_of_lt (hi : IsCipher i) (hv : variantOf s.schedKsize = some v) (hlt : s.ctr.toNat < v.nr) :
    engineStepOf i s = .next (roundStep (roundBlock i s.sched v s.ctr.toNat s.block) s) := by
  rcases hi with rfl | rfl <;> by_cases h0 : s.ctr.toNat = 0 <;>
    simp [engineStepOf, encStep, decStep, roundBlock, hv, h0, hlt]

/-- The engine step with CTR = Nr writes S and completes the command (R183, R185). -/
theorem engineStepOf_cipher_of_eq (hi : IsCipher i) (hv : variantOf s.schedKsize = some v) (heq : s.ctr.toNat = v.nr) :
    engineStepOf i s = .next (complete { s with block := roundBlock i s.sched v v.nr s.block }) := by
  have h0 := v.nr_pos.ne'
  rcases hi with rfl | rfl <;> simp [engineStepOf, encStep, decStep, roundBlock, hv, heq, h0]

theorem roundBlock_encrypt_of_lt (w : Vector Word 60) {k : Nat} (h0 : k ≠ 0) (hlt : k < v.nr) (b : Block) :
    roundBlock .encrypt w v k b = encRound w k b := by
  rw [roundBlock, if_neg h0, if_pos hlt]

theorem roundBlock_encrypt_nr (w : Vector Word 60) (v : Variant) (b : Block) :
    roundBlock .encrypt w v v.nr b = encFinal w v.nr b := by
  rw [roundBlock, if_neg v.nr_pos.ne', if_neg (lt_irrefl _)]

theorem roundBlock_decrypt_of_lt (w : Vector Word 60) {k : Nat} (h0 : k ≠ 0) (hlt : k < v.nr) (b : Block) :
    roundBlock .decrypt w v k b = decRound w (v.nr - k) b := by
  rw [roundBlock, if_neg h0, if_pos hlt]

theorem roundBlock_decrypt_nr (w : Vector Word 60) (v : Variant) (b : Block) :
    roundBlock .decrypt w v v.nr b = decFinal w b := by
  rw [roundBlock, if_neg v.nr_pos.ne', if_neg (lt_irrefl _)]

/-- A turn of the engine with command i in progress is i's engine step (R188, R189). -/
theorem engineTurn_of_running (hr : Running (classOf i) s) (hl : latchedCommand s = some i) :
    engineTurn s = engineStepOf i s := by
  rw [engineTurn_of_latched hr.busy hl, exec_of_running hr]

/-- The engine steps of both commands in the three ranges of CTR. -/
theorem exec_cipher_steps (hi : IsCipher i) (hr : Running (classOf i) s) (hv : variantOf s.schedKsize = some v) :
    (s.ctr = 0 → exec i s = .next { s with block := roundBlock i s.sched v 0 s.block, ctr := 1 }) ∧
    (s.ctr.toNat < v.nr → exec i s = .next
      { s with
        block := roundBlock i s.sched v s.ctr.toNat s.block
        ctr := BitVec.ofNat 6 (s.ctr.toNat + 1) }) ∧
    (s.ctr.toNat = v.nr → exec i s = .next
      { s with block := roundBlock i s.sched v v.nr s.block, busy := false, done := true, fsm := .idle }) := by
  rw [exec_of_running hr]
  have hround (hlt : s.ctr.toNat < v.nr) := engineStepOf_cipher_of_lt hi hv hlt
  simp only [roundStep, add_one_eq_ofNat] at hround
  refine ⟨fun h0 => ?_, hround, engineStepOf_cipher_of_eq hi hv⟩
  have hctr : s.ctr.toNat = 0 := by simp [h0]
  have hfirst := hround (hctr ▸ v.nr_pos)
  rwa [hctr] at hfirst

/-- Settles O30, by the S that each step leaves. -/
theorem encryptSteps : Obligations.EncryptSteps := by
  intro s v hr hv
  obtain ⟨hfirst, hround, hlast⟩ := exec_cipher_steps (.inl rfl) hr hv
  rw [roundBlock_encrypt_nr] at hlast
  refine ⟨hfirst, fun hlo hhi => ?_, hlast⟩
  have hlt : s.ctr.toNat < v.nr := Nat.lt_of_le_pred v.nr_pos hhi
  rw [hround hlt, roundBlock_encrypt_of_lt s.sched (Nat.ne_of_gt hlo) hlt]
  rfl

/-- Settles O31, by the S that each step leaves. -/
theorem decryptSteps : Obligations.DecryptSteps := by
  intro s v hr hv
  obtain ⟨hfirst, hround, hlast⟩ := exec_cipher_steps (.inr rfl) hr hv
  rw [roundBlock_decrypt_nr] at hlast
  refine ⟨hfirst, fun hlo hhi => ?_, hlast⟩
  have hlt : s.ctr.toNat < v.nr := Nat.lt_of_le_pred v.nr_pos hhi
  rw [hround hlt, roundBlock_decrypt_of_lt s.sched (Nat.ne_of_gt hlo) hlt]
  rfl

/-! ## A whole ENCRYPT or DECRYPT (R180, R181, R186) -/

/-- S after the first n engine steps of ENCRYPT or DECRYPT, from b. -/
def blockAfter (i : Instr) (w : Vector Word 60) (v : Variant) (b : Block) : Nat → Block
  | 0 => b
  | n + 1 => roundBlock i w v n (blockAfter i w v b n)

theorem blockAfter_encrypt_of_lt (w : Vector Word 60) (b : Block) {k : Nat} (h : k < v.nr) :
    blockAfter .encrypt w v b (k + 1) = encRounds w b k := by
  induction k with
  | zero => rfl
  | succ k ih => rw [blockAfter, ih (by omega), roundBlock_encrypt_of_lt w k.succ_ne_zero h, encRounds]

theorem blockAfter_decrypt_of_lt (w : Vector Word 60) (b : Block) {k : Nat} (h : k < v.nr) :
    blockAfter .decrypt w v b (k + 1) = decRounds w v.nr b k := by
  induction k with
  | zero => rfl
  | succ k ih => rw [blockAfter, ih (by omega), roundBlock_decrypt_of_lt w k.succ_ne_zero h, decRounds]

/-- The Nr + 1 engine steps of ENCRYPT make the forward cipher (R180). -/
theorem blockAfter_encrypt (w : Vector Word 60) (v : Variant) (b : Block) :
    blockAfter .encrypt w v b (v.nr + 1) = cipher w v b := by
  have hpred : v.nr - 1 + 1 = v.nr := Nat.sub_add_cancel v.nr_pos
  have hrounds := blockAfter_encrypt_of_lt (v := v) w b (k := v.nr - 1) (by omega)
  rw [hpred] at hrounds
  rw [blockAfter, hrounds, roundBlock_encrypt_nr, cipher]

/-- The Nr + 1 engine steps of DECRYPT make the inverse cipher (R181). -/
theorem blockAfter_decrypt (w : Vector Word 60) (v : Variant) (b : Block) :
    blockAfter .decrypt w v b (v.nr + 1) = invCipher w v b := by
  have hpred : v.nr - 1 + 1 = v.nr := Nat.sub_add_cancel v.nr_pos
  have hrounds := blockAfter_decrypt_of_lt (v := v) w b (k := v.nr - 1) (by omega)
  rw [hpred] at hrounds
  rw [blockAfter, hrounds, roundBlock_decrypt_nr, invCipher]

/-- ENCRYPT or DECRYPT is in progress at CTR = n, with no input pending. -/
structure CipheringAt (i : Instr) (v : Variant) (n : Nat) (s : State) : Prop where
  isCipher : IsCipher i
  running : Running (classOf i) s
  latched : latchedCommand s = some i
  no_event : s.events = []
  size : variantOf s.schedKsize = some v
  ctr : s.ctr = BitVec.ofNat 6 n

variable {n : Nat}

/-- With no input pending the step is the engine step of the command (R189). -/
theorem CipheringAt.step_eq (h : CipheringAt i v n s) : step s = engineStepOf i s := by
  rw [step_of_no_event h.no_event, engineTurn_of_running h.running h.latched]

theorem CipheringAt.ctr_toNat (h : CipheringAt i v n s) (hn : n ≤ v.nr) : s.ctr.toNat = n := by
  have := v.nr_le
  rw [h.ctr, BitVec.toNat_ofNat]
  omega

/-- The engine steps that do not complete the command write S and CTR only. -/
theorem CipheringAt.roundStep (h : CipheringAt i v n s) (hn : n ≤ v.nr) (b : Block) :
    CipheringAt i v (n + 1) (roundStep b s) :=
  ⟨h.isCipher, ⟨h.running.busy, h.running.fsm⟩, h.latched, h.no_event, h.size, by
    rw [roundStep_ctr, add_one_eq_ofNat, h.ctr_toNat hn]⟩

/-- From CTR = n on, an engine step for each CTR up to Nr completes the command (R183, R185). -/
theorem CipheringAt.run (h : CipheringAt i v n s) {b : Block} (hb : s.block = blockAfter i s.sched v b n) (r : Nat)
    (hr : n + r = v.nr) :
    runSteps (r + 1) s =
      .next (complete { s with block := blockAfter i s.sched v b (v.nr + 1), ctr := BitVec.ofNat 6 v.nr }) := by
  have hctr : s.ctr.toNat = n := h.ctr_toNat (by omega)
  induction r generalizing n s with
  | zero =>
    obtain rfl : n = v.nr := hr
    have hstep := h.step_eq.trans (engineStepOf_cipher_of_eq h.isCipher h.size hctr)
    rw [runSteps_succ hstep, hb, ← h.ctr]
    rfl
  | succ r ih =>
    have hstep := h.step_eq.trans (engineStepOf_cipher_of_lt h.isCipher h.size (by omega))
    have hnext := h.roundStep (by omega) (roundBlock i s.sched v s.ctr.toNat s.block)
    rw [runSteps_succ hstep, ih hnext ?_ (by omega) (hnext.ctr_toNat (by omega))]
    · rfl
    · rw [roundStep_block, hctr, hb]
      rfl

/-- From the CMD write of ENCRYPT or DECRYPT on an idle engine with a schedule, the accepting step and Nr + 1 engine
steps (R182, R184, R186). -/
theorem runSteps_cipherCommand {c : Word} (hi : IsCipher i) (hd : decode c = .ok i) (h : Idle s)
    (hvalid : s.schedValid = true) (hv : variantOf s.schedKsize = some v) (hevents : s.events = [.write 0x008 4 c]) :
    runSteps (1 + (v.nr + 1)) s = .next
      { answered .okay [] s with
        block := blockAfter i s.sched v s.block (v.nr + 1), done := true, fsm := .idle
        curOp := i.opcode, curRnd := i.rndBits, ctr := BitVec.ofNat 6 v.nr } := by
  have haccept : acceptedBy i = accept i.opcode i.rndBits (classOf i) := by rcases hi with rfl | rfl <;> rfl
  have hpass : checkOf i s = .pass := by rcases hi with rfl | rfl <;> exact checkSchedule_of_valid hvalid
  have hstart : CipheringAt i v 0 (acceptedBy i (answered .okay [] s)) :=
    ⟨hi, ⟨acceptedBy_busy _ _, acceptedBy_fsm _ _⟩, latchedCommand_acceptedBy hd _, by rw [haccept]; rfl,
      by rwa [acceptedBy_schedKsize], acceptedBy_ctr _ _⟩
  rw [Nat.add_comm 1, runSteps_succ (step_of_pass h hevents hd hpass), hstart.run rfl v.nr (Nat.zero_add _), haccept]
  simp only [answered, h.busy]
  rfl

/-- Settles O32: the engine steps of ENCRYPT make the forward cipher. -/
theorem encryptRunGivesCipher : Obligations.EncryptRunGivesCipher := by
  intro s v h hvalid hv hevents
  rw [← blockAfter_encrypt]
  exact runSteps_cipherCommand (.inl rfl) (decode_encode (i := .encrypt) rfl) h hvalid hv hevents

/-- Settles O33: the engine steps of DECRYPT make the inverse cipher. -/
theorem decryptRunGivesInvCipher : Obligations.DecryptRunGivesInvCipher := by
  intro s v h hvalid hv hevents
  rw [← blockAfter_decrypt]
  exact runSteps_cipherCommand (.inr rfl) (decode_encode (i := .decrypt) rfl) h hvalid hv hevents

end Sys2Proof.Machine

namespace Sys2Proof.Machine

variable {v : Variant}

/-! ## Decryption undoes encryption (R187) -/

theorem shiftRowsF_invShiftRowsF (b : Block) : shiftRowsF (invShiftRowsF b) = b :=
  Block.ext_get fun r c => by rw [get_shiftRowsF, get_invShiftRowsF, add_sub_cancel_right]

/-- M times IM is the identity, because its first row is 01 00 00 00. -/
theorem mulColumn_mulColumn_inv (a : Column) :
    mulColumn 0x02 0x03 0x01 0x01 (mulColumn 0x0E 0x0B 0x0D 0x09 a) = a := by
  rw [mulColumn_mulColumn]
  exact mulColumn_one a

theorem mixColumnsF_invMixColumnsF (b : Block) : mixColumnsF (invMixColumnsF b) = b :=
  Block.ext_column fun c => by
    rw [invMixColumnsF, mixColumnsF, Block.column_mapColumns, Block.column_mapColumns, mulColumn_mulColumn_inv]

/-- Seen after SubBytes and ShiftRows, a middle round of the inverse cipher undoes a middle round of the forward cipher
with the same round key (R180, R181). -/
theorem decRound_shiftRowsF_subBytesF_encRound (w : Vector Word 60) (rnd : Nat) (b : Block) :
    decRound w rnd (shiftRowsF (subBytesF (encRound w rnd b))) = shiftRowsF (subBytesF b) := by
  rw [decRound, encRound, invShiftRowsF_shiftRowsF, invSubBytesF_subBytesF, addRoundKeyF_addRoundKeyF,
    invMixColumnsF_mixColumnsF]

/-- Seen after InvShiftRows and InvSubBytes, a middle round of the forward cipher undoes one of the inverse cipher with
the same round key. -/
theorem encRound_invSubBytesF_invShiftRowsF_decRound (w : Vector Word 60) (rnd : Nat) (b : Block) :
    encRound w rnd (invSubBytesF (invShiftRowsF (decRound w rnd b))) = invSubBytesF (invShiftRowsF b) := by
  rw [decRound, encRound, subBytesF_invSubBytesF, shiftRowsF_invShiftRowsF, mixColumnsF_invMixColumnsF,
    addRoundKeyF_addRoundKeyF]

/-- The inverse cipher goes back through the states of the forward cipher, after ShiftRows and SubBytes. -/
theorem decRounds_cipher (w : Vector Word 60) (b : Block) {k : Nat} (h : k < v.nr) :
    decRounds w v.nr (cipher w v b) k = shiftRowsF (subBytesF (encRounds w b (v.nr - 1 - k))) := by
  induction k with
  | zero => rw [decRounds, cipher, encFinal, addRoundKeyF_addRoundKeyF, Nat.sub_zero]
  | succ k ih =>
    have hround : v.nr - 1 - k = v.nr - 1 - (k + 1) + 1 := by omega
    have hkey : v.nr - (k + 1) = v.nr - 1 - (k + 1) + 1 := by omega
    rw [decRounds, ih (by omega), hround, encRounds, hkey, decRound_shiftRowsF_subBytesF_encRound]

/-- The forward cipher goes back through the states of the inverse cipher, after InvShiftRows and InvSubBytes. -/
theorem encRounds_invCipher (w : Vector Word 60) (b : Block) {k : Nat} (h : k < v.nr) :
    encRounds w (invCipher w v b) k = invSubBytesF (invShiftRowsF (decRounds w v.nr b (v.nr - 1 - k))) := by
  induction k with
  | zero => rw [encRounds, invCipher, decFinal, addRoundKeyF_addRoundKeyF, Nat.sub_zero]
  | succ k ih =>
    have hround : v.nr - 1 - k = v.nr - 1 - (k + 1) + 1 := by omega
    have hkey : v.nr - (v.nr - 1 - (k + 1) + 1) = k + 1 := by omega
    rw [encRounds, ih (by omega), hround, decRounds, hkey, encRound_invSubBytesF_invShiftRowsF_decRound]

theorem invCipher_cipher (w : Vector Word 60) (v : Variant) (b : Block) : invCipher w v (cipher w v b) = b := by
  have hlast : v.nr - 1 < v.nr := Nat.pred_lt v.nr_pos.ne'
  rw [invCipher, decRounds_cipher w b hlast, Nat.sub_self, decFinal, invShiftRowsF_shiftRowsF, invSubBytesF_subBytesF,
    encRounds, addRoundKeyF_addRoundKeyF]

theorem cipher_invCipher (w : Vector Word 60) (v : Variant) (b : Block) : cipher w v (invCipher w v b) = b := by
  have hlast : v.nr - 1 < v.nr := Nat.pred_lt v.nr_pos.ne'
  rw [cipher, encRounds_invCipher w b hlast, Nat.sub_self, encFinal, subBytesF_invSubBytesF, shiftRowsF_invShiftRowsF,
    decRounds, addRoundKeyF_addRoundKeyF]

/-- Settles O35: each cipher goes back through the rounds of the other. -/
theorem cipherRoundTrip : Obligations.CipherRoundTrip := fun w v b =>
  ⟨invCipher_cipher w v b, cipher_invCipher w v b⟩

/-! ## The multi-block contract of the host (R196 to R198) -/

/-- The message fits in its blocks (R196). -/
theorem le_blockCount (n : Nat) : n ≤ 16 * blockCount n := by
  rw [blockCount]
  omega

theorem length_padMessage (m : List Byte) : (padMessage m).length = 16 * blockCount m.length := by
  rw [padMessage, List.length_append, List.length_replicate]
  exact Nat.add_sub_cancel' (le_blockCount m.length)

theorem blockOfBytes_bytes_append (b : Block) (m : List Byte) : blockOfBytes (b.bytes ++ m) = b := rfl

theorem drop_bytes_append (b : Block) (m : List Byte) : (b.bytes ++ m).drop 16 = m := rfl

theorem length_splitBlocks (n : Nat) (m : List Byte) : (splitBlocks n m).length = n := by
  induction n generalizing m with
  | zero => rfl
  | succ n ih => rw [splitBlocks, List.length_cons, ih]

theorem joinBlocks_cons (b : Block) (bs : List Block) : joinBlocks (b :: bs) = b.bytes ++ joinBlocks bs :=
  List.flatMap_cons

theorem length_joinBlocks (bs : List Block) : (joinBlocks bs).length = 16 * bs.length := by
  induction bs with
  | nil => rfl
  | cons b bs ih =>
    have hbytes : b.bytes.length = 16 := rfl
    rw [joinBlocks_cons, List.length_append, ih, List.length_cons, hbytes]
    omega

/-- The blocks of concatenated blocks are those blocks. -/
theorem splitBlocks_joinBlocks (bs : List Block) : splitBlocks bs.length (joinBlocks bs) = bs := by
  induction bs with
  | nil => rfl
  | cons b bs ih =>
    rw [joinBlocks_cons, List.length_cons, splitBlocks, blockOfBytes_bytes_append, drop_bytes_append, ih]

/-- The bytes of the first block are those of the sequence, in order (R11). -/
theorem bytes_blockOfBytes_eq_map (m : List Byte) :
    (blockOfBytes m).bytes = (List.range 16).map fun j => (m[j]?).getD 0x00 := rfl

theorem bytes_blockOfBytes (m : List Byte) (h : 16 ≤ m.length) : (blockOfBytes m).bytes = m.take 16 := by
  rw [bytes_blockOfBytes_eq_map]
  refine List.ext_getElem ?_ fun j hj _ => ?_
  · rw [List.length_map, List.length_range, List.length_take, Nat.min_eq_left h]
  · rw [List.length_map, List.length_range] at hj
    rw [List.getElem_map, List.getElem_range, List.getElem_take, List.getElem?_eq_getElem (by omega), Option.getD_some]

/-- A sequence of whole blocks is its blocks concatenated. -/
theorem joinBlocks_splitBlocks (n : Nat) (m : List Byte) (h : m.length = 16 * n) : joinBlocks (splitBlocks n m) = m := by
  induction n generalizing m with
  | zero => exact (List.length_eq_zero_iff.mp h).symm
  | succ n ih =>
    rw [splitBlocks, joinBlocks_cons, bytes_blockOfBytes m (by omega), ih _ (by rw [List.length_drop]; omega),
      List.take_append_drop]

theorem length_encryptMessage (w : Vector Word 60) (v : Variant) (m : List Byte) :
    (encryptMessage w v m).length = 16 * blockCount m.length := by
  rw [encryptMessage, length_joinBlocks, List.length_map, length_splitBlocks]

/-- Whole blocks are decrypted block by block (R197). -/
theorem decryptMessage_joinBlocks (w : Vector Word 60) (v : Variant) (bs : List Block) :
    decryptMessage w v (joinBlocks bs) = some (joinBlocks (bs.map (invCipher w v))) := by
  rw [decryptMessage, length_joinBlocks, if_neg (by omega), Nat.mul_div_cancel_left _ (by decide),
    splitBlocks_joinBlocks]

/-- Decryption of the ciphertext gives the padded message back (R198). -/
theorem decryptMessage_encryptMessage (w : Vector Word 60) (v : Variant) (m : List Byte) :
    decryptMessage w v (encryptMessage w v m) = some (padMessage m) := by
  have hinverse : invCipher w v ∘ cipher w v = id := funext (invCipher_cipher w v)
  rw [encryptMessage, decryptMessage_joinBlocks, List.map_map, hinverse, List.map_id,
    joinBlocks_splitBlocks _ _ (length_padMessage m)]

/-- Settles O36, by splitting into blocks and joining them again. -/
theorem multiBlockRoundTrip : Obligations.MultiBlockRoundTrip := by
  intro w v m
  refine ⟨length_padMessage m, ?_, ?_, fun h => if_pos h⟩
  · rw [length_encryptMessage, length_padMessage]
  · rw [decryptMessage_encryptMessage, length_padMessage]
    rfl

end Sys2Proof.Machine

namespace Sys2Proof.Machine

variable {s t u : State} {i : Instr} {v : Variant} {e : Event} {rest : List Event}

/-! ## Host accesses while a command is in progress (R190) -/

/-- s with DONE, the error record and the model's own fields of x: all that a host access but a soft reset can touch
while BUSY = 1 (R26, R66). -/
def withRecordOf (x s : State) : State :=
  { s with
    done := x.done, err := x.err, errOvf := x.errOvf, errCode := x.errCode
    events := x.events, responses := x.responses, draws := x.draws }

/-- Two states that agree on every element but DONE, the error record and the model's own fields. -/
def SameCommand (s t : State) : Prop := withRecordOf t s = t

theorem SameCommand.frame (h : SameCommand s t) :
    t.block = s.block ∧ t.key = s.key ∧ t.keyWr = s.keyWr ∧ t.sched = s.sched ∧ t.opa = s.opa ∧ t.opb = s.opb ∧
      t.result = s.result ∧ t.schedValid = s.schedValid ∧ t.schedKsize = s.schedKsize ∧ t.xKsize = s.xKsize ∧
      t.ksize = s.ksize ∧ t.irqEn = s.irqEn ∧ t.busy = s.busy ∧ t.fsm = s.fsm ∧ t.curOp = s.curOp ∧
      t.curRnd = s.curRnd ∧ t.ctr = s.ctr := by
  rw [← h]
  exact ⟨rfl, rfl, rfl, rfl, rfl, rfl, rfl, rfl, rfl, rfl, rfl, rfl, rfl, rfl, rfl, rfl, rfl⟩

theorem SameCommand.busy (h : SameCommand s t) : t.busy = s.busy := (congrArg State.busy h).symm

theorem SameCommand.latchedCommand (h : SameCommand s t) : latchedCommand t = latchedCommand s :=
  (congrArg Machine.latchedCommand h).symm

theorem SameCommand.running {cls : Fsm} (h : SameCommand s t) (hr : Running cls s) : Running cls t :=
  ⟨h.busy.trans hr.busy, (congrArg State.fsm h).symm.trans hr.fsm⟩

theorem SameCommand.trans (h : SameCommand s t) (h' : SameCommand t u) : SameCommand s u := by
  rw [← h', ← h]
  rfl

theorem sameCommand_raiseError (code : ErrCode) (s : State) : SameCommand s (raiseError code s) := by
  unfold raiseError
  split <;> rfl

theorem sameCommand_writeStatus (w : Word) (s : State) : SameCommand s (writeStatus w s) := by
  rw [writeStatus_eq]
  rfl

/-- A register write but a soft reset while BUSY = 1 records an error, clears DONE or the record, or does
nothing (R26, R65, R66). -/
theorem exists_writeReg_of_busy {r : Reg} {w : Word} (hb : s.busy = true) (hr : r = .ctrl → w.getLsbD 31 = false) :
    ∃ t, writeReg r w s = .next t ∧ SameCommand s t ∧ t.events = s.events := by
  have raised (h : writeReg r w s = .next (raiseError .busy s)) :
      ∃ t, writeReg r w s = .next t ∧ SameCommand s t ∧ t.events = s.events :=
    ⟨_, h, sameCommand_raiseError .busy s, raiseError_events .busy s⟩
  cases r with
  | ctrl => exact raised (writeReg_of_busy hb (.inr (.inr (.inr (.inr (.inr ⟨rfl, hr rfl⟩))))))
  | cmd => exact raised (writeReg_of_busy hb (.inl rfl))
  | state c => exact raised (writeReg_of_busy hb (.inr (.inl ⟨c, rfl⟩)))
  | key k => exact raised (writeReg_of_busy hb (.inr (.inr (.inl ⟨k, rfl⟩))))
  | opa => exact raised (writeReg_of_busy hb (.inr (.inr (.inr (.inl rfl)))))
  | opb => exact raised (writeReg_of_busy hb (.inr (.inr (.inr (.inr (.inl rfl))))))
  | status => exact ⟨_, rfl, sameCommand_writeStatus w s, by rw [writeStatus_eq]⟩
  | id | result | rkey => exact ⟨s, rfl, rfl, rfl⟩

/-- A host access but a soft reset while BUSY = 1 goes on and leaves the command alone (R190). -/
theorem exists_step_of_access (hb : s.busy = true) (hevents : s.events = e :: rest) (he : e ≠ .engine)
    (hu : Undisturbing e) : ∃ t, step s = .next t ∧ SameCommand s t ∧ t.events = rest := by
  cases e with
  | read off size =>
    obtain ⟨r, n, hread⟩ := readsHaveNoSideEffects s off size rest hevents
    exact ⟨_, hread, rfl, rfl⟩
  | write off size w =>
    rw [step_of_event hevents, perform, busWrite]
    cases ha : accessed off size with
    | none => exact ⟨_, rfl, rfl, rfl⟩
    | some r =>
      have hr : r = .ctrl → w.getLsbD 31 = false := by
        rintro rfl
        exact Bool.eq_false_of_not_eq_true fun hw => hu ⟨ha, hw⟩
      exact exists_writeReg_of_busy (s := respond .okay { s with events := rest }) hb hr
  | engine => exact absurd rfl he
  | reset => exact absurd hu id

/-- Settles O42, by what an access can touch. -/
theorem busyCommandIsIsolated : Obligations.BusyCommandIsIsolated := by
  intro s e rest hb hevents he hu
  obtain ⟨t, hst, hsame, -⟩ := exists_step_of_access hb hevents he hu
  exact ⟨t, hst, hsame.frame⟩

/-! ## Engine steps do not see what host accesses touch (R190) -/

/-- An engine step does the same whatever DONE, the error record and the model's own fields are. -/
theorem engineStepOf_withRecordOf (h : engineStepOf i s = .next t) (x : State) :
    ∃ y, engineStepOf i (withRecordOf x s) = .next (withRecordOf y t) ∧ y.events = x.events := by
  have cipher (hi : IsCipher i) {v : Variant} (hv : variantOf s.schedKsize = some v) (hle : s.ctr.toNat ≤ v.nr) :
      ∃ y, engineStepOf i (withRecordOf x s) = .next (withRecordOf y t) ∧ y.events = x.events := by
    rcases Nat.lt_or_eq_of_le hle with hlt | heq
    · obtain rfl := Host.Outcome.next.inj (h.symm.trans (engineStepOf_cipher_of_lt hi hv hlt))
      exact ⟨x, engineStepOf_cipher_of_lt (s := withRecordOf x s) hi hv hlt, rfl⟩
    · obtain rfl := Host.Outcome.next.inj (h.symm.trans (engineStepOf_cipher_of_eq hi hv heq))
      exact ⟨{ x with done := true }, engineStepOf_cipher_of_eq (s := withRecordOf x s) hi hv heq, rfl⟩
  cases i with
  | keyExpand =>
    obtain ⟨v, hv, ⟨h0, rfl⟩ | ⟨-, hlo, hhi, rfl⟩⟩ := kexpStep_next h
    · exact ⟨x, kexpStep_of_load (s := withRecordOf x s) hv h0, rfl⟩
    · have hword := kexpStep_of_word (s := withRecordOf x s) hv hlo hhi
      rw [kexpWord_eq] at hword ⊢
      split
      · exact ⟨{ x with done := true }, hword.trans (congrArg _ (if_pos (by assumption))), rfl⟩
      · exact ⟨x, hword.trans (congrArg _ (if_neg (by assumption))), rfl⟩
  | encrypt =>
    obtain ⟨v, b, hv, hc⟩ := encStep_next h
    exact cipher (.inl rfl) hv (by omega)
  | decrypt =>
    obtain ⟨v, b, hv, hc⟩ := decStep_next h
    exact cipher (.inr rfl) hv (by omega)
  | _ =>
    cases h
    exact ⟨{ x with done := true }, rfl, rfl⟩

theorem SameCommand.engineStepOf (h : SameCommand s u) (hs : engineStepOf i s = .next t) :
    ∃ u', engineStepOf i u = .next u' ∧ SameCommand t u' ∧ u'.events = u.events := by
  obtain ⟨y, hu, hy⟩ := engineStepOf_withRecordOf hs u
  rw [h] at hu
  exact ⟨_, hu, rfl, hy⟩

/-! ## Two runs of one command, with inputs and without (R190) -/

/-- u and s have the same command in progress, u with no input pending. -/
structure Alongside (u s : State) : Prop where
  inv : Inv u
  no_event : u.events = []
  same : SameCommand u s

/-- A turn of the engine advances both runs by the same engine step (R190). -/
theorem Alongside.engineTurn (h : Alongside u s) (hb : u.busy = true) (hturn : EngineNext s) :
    ∃ u' s', step u = .next u' ∧ step s = .next s' ∧ Alongside u' s' ∧ s'.events = s.events.tail ∧
      stepsLeft u = stepsLeft u' + 1 ∧ (s'.busy = false → s'.done = true) := by
  obtain ⟨i, hl, hc⟩ := h.inv.latched hb
  have hr : Running (classOf i) u := ⟨hb, hc.symm⟩
  have hsame : SameCommand u { s with events := s.events.tail } := h.same.trans rfl
  obtain ⟨u', hu'⟩ := exists_engineStep h.inv hr
  obtain ⟨s', hs', hsame', hrest⟩ := hsame.engineStepOf hu'
  have hstep : step u = .next u' := by
    rw [step_of_no_event h.no_event, engineTurn_of_running hr hl, hu']
  have hstep' : step s = .next s' := by
    rw [step_of_engineNext hturn, engineTurn_of_running (hsame.running hr) (hsame.latchedCommand.trans hl), hs']
  exact ⟨u', s', hstep, hstep',
    ⟨stepKeepsTheInvariant u u' h.inv hstep, (engineCase_of_step hu').events.trans h.no_event, hsame'⟩, hrest,
    (stepsLeft_engineStep hr hu').symm, (engineCase_of_step hs').done_of_not_busy (hsame.running hr).busy⟩

/-- A host access but a soft reset advances one run and leaves the command alone (R190). -/
theorem Alongside.access (h : Alongside u s) (hb : u.busy = true) (hevents : s.events = e :: rest) (he : e ≠ .engine)
    (hu : Undisturbing e) : ∃ s', step s = .next s' ∧ Alongside u s' ∧ s'.events = rest := by
  obtain ⟨s', hst, hsame, hrest⟩ := exists_step_of_access (h.same.busy.trans hb) hevents he hu
  exact ⟨s', hst, ⟨h.inv, h.no_event, h.same.trans hsame⟩, hrest⟩

/-- Inputs that do not disturb the command, with as many engine turns among them as it has steps left but one, and the
last engine turn, complete it as a run with no inputs does (R190). -/
theorem Alongside.run {es : List Event} (h : Alongside u s) (hevents : s.events = es ++ [.engine])
    (hes : ∀ e ∈ es, Undisturbing e) (hcount : es.count .engine + 1 = stepsLeft u) :
    ∃ t u', runSteps (es.length + 1) s = .next t ∧ runSteps (stepsLeft u) u = .next u' ∧ Alongside u' t ∧
      t.busy = false ∧ t.done = true := by
  have hb : u.busy = true := (stepsLeft_pos_iff h.inv).mp (by omega)
  induction es generalizing u s with
  | nil =>
    obtain ⟨u', t, hu, hs, hside, -, hleft, hdone⟩ := h.engineTurn hb (.inr ⟨[], hevents⟩)
    have hzero : stepsLeft u' = 0 := by
      rw [List.count_nil] at hcount
      omega
    have hidle : u'.busy = false := by
      rw [← Bool.not_eq_true, ← stepsLeft_pos_iff hside.inv, hzero]
      exact lt_irrefl 0
    have ht : t.busy = false := hside.same.busy.trans hidle
    rw [hleft, hzero]
    exact ⟨t, u', runSteps_succ hs 0, runSteps_succ hu 0, hside, ht, hdone ht⟩
  | cons e es ih =>
    obtain ⟨he, htail⟩ := List.forall_mem_cons.mp hes
    by_cases hengine : e = .engine
    · subst hengine
      obtain ⟨u', s', hu, hs, hside, hrest, hleft, -⟩ := h.engineTurn hb (.inr ⟨_, hevents⟩)
      rw [hevents] at hrest
      rw [List.count_cons_self] at hcount
      rw [List.length_cons, runSteps_succ hs, hleft, runSteps_succ hu]
      exact ih hside hrest htail (by omega) ((stepsLeft_pos_iff hside.inv).mp (by omega))
    · obtain ⟨s', hs, hside, hrest⟩ := h.access hb hevents hengine he
      rw [List.count_cons_of_ne hengine] at hcount
      rw [List.length_cons, runSteps_succ hs]
      exact ih hside hrest htail hcount hb

/-- Settles O43: the run with the inputs and the run without them stay alongside each other. -/
theorem interleavingDoesNotChangeTheResult : Obligations.InterleavingDoesNotChangeTheResult := by
  intro s es hinv hb hnil hes hcount
  have hside : Alongside s { s with events := es ++ [.engine] } := ⟨hinv, hnil, rfl⟩
  obtain ⟨t, u, ht, hu, hside, htb, htd⟩ := hside.run rfl hes hcount
  obtain ⟨u', hu', hub, hud, -⟩ := exists_runSteps_completed hinv hnil hb
  obtain rfl : u = u' := Host.Outcome.next.inj (hu.symm.trans hu')
  obtain ⟨hblock, hkey, hkeyWr, hsched, hopa, hopb, hresult, hvalid, hschedKsize, -, hksize, hirqEn, -⟩ :=
    hside.same.frame
  exact ⟨t, u, ht, hu, htb, hub, htd, hud, hblock, hsched, hvalid, hschedKsize, hkey, hkeyWr, hopa, hopb, hresult,
    hksize, hirqEn⟩

end Sys2Proof.Machine

namespace Sys2Proof.Machine

variable {s t : State} {i : Instr} {e : Event} {rest : List Event} {c : Word}

/-! ## From a state that meets the invariant the machine goes on (R189, R234) -/

/-- No check stops where SCHED_KSIZE is not 3: only ADD_ROUND_KEY's could, asking for `nr(3)` (R22, R30). -/
theorem checkOf_ne_stuck (h : s.schedKsize ≠ 3) (i : Instr) (reason : Fault) : checkOf i s ≠ .stuck reason := by
  cases i with
  | addRoundKey rnd =>
    cases hv : s.schedValid with
    | false => exact (checkRound_of_invalid hv rnd).trans_ne nofun
    | true =>
      obtain ⟨v, hsize⟩ := exists_variantOf h
      simp only [checkOf, checkRound_of_valid hv hsize]
      split <;> exact nofun
  | keyExpand | encrypt | decrypt | gfMul | sbox | invSbox =>
    simp only [checkOf, checkKey, checkSchedule, checkOpaOpb, checkOpa]
    repeat' split
    all_goals exact nofun
  | _ => exact nofun

/-- On an idle engine a command is accepted or refused (R233). -/
theorem exists_exec_of_idle (h : Inv s) (hi : Idle s) (i : Instr) : ∃ t, exec i s = .next t := by
  cases hc : checkOf i s with
  | pass => exact ⟨_, exec_of_pass hi hc⟩
  | refuse code => exact ⟨_, exec_of_refuse hi hc⟩
  | stuck reason => exact absurd hc (checkOf_ne_stuck h.sched_size i reason)

/-- A CMD write of any word goes on (R231 to R233). -/
theorem exists_writeCmd (h : Inv s) (c : Word) : ∃ t, writeCmd c s = .next t := by
  cases hb : s.busy with
  | true => exact ⟨_, writeCmd_of_busy hb c⟩
  | false =>
    cases he : s.err with
    | true => exact ⟨_, writeCmd_of_error hb he c⟩
    | false =>
      have hi : Idle s := ⟨hb, he⟩
      cases hd : decode c with
      | error x => exact ⟨_, writeCmd_of_illegal hi hd⟩
      | ok i =>
        rw [writeCmd_of_decoded hi hd]
        exact exists_exec_of_idle h hi i

/-- A write of any register goes on; only CMD runs a command's part (R63, R65). -/
theorem exists_writeReg (h : Inv s) (r : Reg) (v : Word) : ∃ t, writeReg r v s = .next t := by
  cases r with
  | cmd => exact exists_writeCmd h v
  | _ => exact ⟨_, rfl⟩

/-- A turn of the engine goes on: the latched command has an engine step for its progress (R188, R189). -/
theorem exists_engineTurn (h : Inv s) : ∃ t, engineTurn s = .next t := by
  cases hb : s.busy with
  | false => exact ⟨s, engineTurn_of_idle hb⟩
  | true =>
    obtain ⟨i, hl, hc⟩ := h.latched hb
    have hr : Running (classOf i) s := ⟨hb, hc.symm⟩
    rw [engineTurn_of_running hr hl]
    exact exists_engineStep h hr

/-- Every input goes on (R7). -/
theorem exists_perform (h : Inv s) (e : Event) : ∃ t, perform e s = .next t := by
  cases e with
  | read off size => exact ⟨_, rfl⟩
  | write off size v =>
    rw [perform, busWrite]
    cases accessed off size with
    | none => exact ⟨_, rfl⟩
    | some r => exact exists_writeReg (h.env s.events (.okay :: s.responses) s.draws) r v
  | engine => exact exists_engineTurn h
  | reset => exact ⟨_, rfl⟩

/-- Settles O39, by what a step performs: the next input, or a turn of the engine. -/
theorem stepAlwaysGoesOn : Obligations.StepAlwaysGoesOn := by
  intro s h
  cases hevents : s.events with
  | nil =>
    rw [step_of_no_event hevents]
    exact exists_engineTurn h
  | cons e rest =>
    rw [step_of_event hevents]
    exact exists_perform (h.env rest s.responses s.draws) e

/-! ## Commands that are not accepted (R231, R232, R237) -/

/-- Settles O14: a CMD write while an error is recorded does not decode its word. -/
theorem pendingErrorRefusesEveryCommand : Obligations.PendingErrorRefusesEveryCommand := by
  intro s c rest hb he hevents
  rw [step_write .cmd hevents]
  exact writeCmd_of_error (s := answered .okay rest s) hb he c

/-- A CMD write that is not accepted records an error and does nothing else; a refusal for a pending error is one more
error recorded (R66, R231, R232). -/
theorem exists_raiseError_of_writeCmd (h : writeCmd c s = .next t) (hrefused : s.busy = true ∨ t.busy = false) :
    ∃ code, code ≠ .none ∧ t = raiseError code s := by
  have pending (he : s.err = true) : ∃ code, code ≠ .none ∧ refusePending s = raiseError code s :=
    ⟨.busy, nofun, (raiseError_of_error he .busy).symm⟩
  rcases writeCmd_next h with ⟨-, rfl⟩ | ⟨-, he, rfl⟩ | ⟨-, rfl⟩ | ⟨hi, i, -, hx⟩
  · exact ⟨.busy, nofun, rfl⟩
  · exact pending he
  · exact ⟨.illegalCmd, nofun, rfl⟩
  · have hs : s.busy ≠ true := Bool.eq_false_iff.mp hi.busy
    rcases exec_next hx with ⟨-, he, rfl⟩ | ⟨-, code, hc, -, rfl⟩ | ⟨-, -, rfl⟩ | ⟨hr, -⟩
    · exact pending he
    · exact ⟨code, hc, rfl⟩
    · exact absurd (hrefused.resolve_left hs) (by simp)
    · exact absurd hr.busy hs

/-- Recording an error touches the error record only (R231). -/
theorem raiseError_eq (code : ErrCode) (s : State) :
    raiseError code s =
      { s with err := true, errCode := (raiseError code s).errCode, errOvf := (raiseError code s).errOvf } := by
  cases he : s.err with
  | true => rw [raiseError_of_error he, ← he]
  | false => rw [raiseError_of_no_error he]

/-- Settles O55: a CMD write that is not accepted does what recording an error does. -/
theorem refusedCommandChangesOnlyTheErrorRecord : Obligations.RefusedCommandChangesOnlyTheErrorRecord := by
  intro s t c rest hevents hst hrefused
  rw [step_write .cmd hevents] at hst
  obtain ⟨code, hc, rfl⟩ := exists_raiseError_of_writeCmd (s := answered .okay rest s) hst hrefused
  refine ⟨raiseError_eq code _, fun he => ?_, fun he => ?_⟩
  · rw [raiseError_of_no_error (s := answered .okay rest s) he]
    exact ⟨hc, rfl⟩
  · rw [raiseError_of_error (s := answered .okay rest s) he]
    exact ⟨rfl, rfl⟩

/-! ## irq (R238, R239) -/

theorem irq_eq_true_iff (s : State) : irq s = true ↔ s.irqEn = true ∧ (s.done = true ∨ s.err = true) := by
  simp [irq]

theorem irq_eq_false_iff (s : State) : irq s = false ↔ s.irqEn = false ∨ (s.done = false ∧ s.err = false) := by
  simp only [irq, Bool.and_eq_false_iff, Bool.or_eq_false_iff]

@[simp] theorem primEffect_irqEn (i : Instr) (s : State) : (primEffect i s).irqEn = s.irqEn := by cases i <;> rfl

/-- An engine step keeps IRQ_EN and ERR. -/
theorem EngineCase.irqEn_err (h : EngineCase i s t) : t.irqEn = s.irqEn ∧ t.err = s.err := by
  cases h with
  | prim => exact ⟨primEffect_irqEn i s, (primEffect_error i s).1⟩
  | load v => exact ⟨kexpLoad_irqEn v s, kexpLoad_err v s⟩
  | word v =>
    rw [kexpWord_eq]
    split <;> exact ⟨rfl, rfl⟩
  | round | lastRound => exact ⟨rfl, rfl⟩

@[simp] theorem acceptedBy_irqEn (i : Instr) (s : State) : (acceptedBy i s).irqEn = s.irqEn := by cases i <;> rfl

/-- IRQ_EN changes only by a CTRL write or a reset (R21, R23). -/
theorem StepCase.irqEn (h : StepCase s t) :
    t.irqEn = s.irqEn ∨ (∃ v rest, s.events = .write 0x000 4 v :: rest) ∨ ResetNext s := by
  cases h with
  | answer | idleTurn | writeData | refusePending => exact .inl rfl
  | engineStep i _ _ _ next => exact .inl (engineCase_of_step next).irqEn_err.1
  | reset _ _ input => exact .inr (.inr input)
  | writeCtrl v input => exact .inr (.inl ⟨v, _, input⟩)
  | writeStatus v =>
    rw [writeStatus_eq]
    exact .inl rfl
  | raise code => exact .inl (raiseError_irqEn code _)
  | accept c i => exact .inl (acceptedBy_irqEn i _)

/-- ERR, once recorded, stays but for a STATUS write or a reset (R29, R236). -/
theorem StepCase.err (h : StepCase s t) :
    (s.err = true → t.err = true) ∨ (∃ v rest, s.events = .write 0x004 4 v :: rest) ∨ ResetNext s := by
  cases h with
  | answer | idleTurn | writeCtrl | writeData | refusePending => exact .inl id
  | engineStep i _ _ _ next => exact .inl fun he => (engineCase_of_step next).irqEn_err.2.trans he
  | reset _ _ input => exact .inr (.inr input)
  | writeStatus v input => exact .inr (.inl ⟨v, _, input⟩)
  | raise code => exact .inl fun _ => raiseError_err code _
  | accept c i => exact .inl fun he => (acceptedBy_err i _).trans he

/-- Settles O57: irq falls with IRQ_EN, or with the last of DONE and ERR, and each of the three has its causes. -/
theorem irqFallsOnlyByItsCauses : Obligations.IrqFallsOnlyByItsCauses := by
  refine ⟨irq_eq_true_iff, fun s t hst hs ht => ?_⟩
  have hcase : StepCase s t := stepCase_of_step hst
  obtain ⟨hen, hlevel⟩ := (irq_eq_true_iff s).mp hs
  rcases (irq_eq_false_iff t).mp ht with hen' | ⟨hdone', herr'⟩
  · rcases hcase.irqEn with hkeep | ⟨v, rest, input⟩ | hreset
    · exact absurd (hen.symm.trans (hkeep.symm.trans hen')) nofun
    · exact .inr (.inl ⟨v, rest, input, hen'⟩)
    · exact .inr (.inr (.inr hreset))
  · cases herr : s.err with
    | true =>
      rcases hcase.err with hkeep | ⟨v, rest, input⟩ | hreset
      · exact absurd ((hkeep herr).symm.trans herr') nofun
      · exact .inl ⟨v, rest, input, hdone', herr'⟩
      · exact .inr (.inr (.inr hreset))
    | false =>
      have hdone : s.done = true := hlevel.resolve_right (Bool.eq_false_iff.mp herr)
      rcases (doneRisesOnlyAtCompletion s t hst).2 hdone hdone' with
        ⟨c, rest, input, hidle, hbusy⟩ | ⟨v, rest, input, -⟩ | hreset
      · exact .inr (.inr (.inl ⟨c, rest, input, rfl, hidle, hbusy⟩))
      · exact .inl ⟨v, rest, input, hdone', herr'⟩
      · exact .inr (.inr (.inr hreset))

end Sys2Proof.Machine

namespace Sys2Proof.Machine

/-! ## The resets from every state (R24, R270, R271) -/

/-- A reset from any state agrees with the reset state on every element of R47; it keeps only the model's own fields
(log 5). -/
theorem atResetValues_toReset (s : State) : AtResetValues (toReset s) :=
  have base : AtResetValues State.reset := resetStateHoldsResetValues
  { base with }

/-- A CTRL write with SRST resets, busy or idle (R24). -/
theorem writeCtrl_of_srst {v : Word} (hv : v.getLsbD 31 = true) (s : State) : writeCtrl v s = toReset s := by
  rw [writeCtrl, if_pos hv]

/-- Settles O2: the step of either reset is `toReset`, of the state with its input taken and, for SRST, answered. -/
theorem resetsReachResetValues : Obligations.ResetsReachResetValues := by
  refine ⟨fun s rest h => ?_, fun s rest v h hv => ?_⟩
  · have hstep : step s = .next (toReset { s with events := rest }) := step_of_event h
    exact ⟨_, hstep, atResetValues_toReset _, rfl, rfl, rfl⟩
  · have hstep : step s = .next (toReset (answered .okay rest s)) := by
      rw [step_write .ctrl h, writeReg, writeCtrl_of_srst hv]
    exact ⟨_, hstep, atResetValues_toReset _, rfl, rfl, rfl⟩

end Sys2Proof.Machine
